-- ==== Sys2Proof/Word.lean ====
section
/-! DEFINITION. The value types of the set-luminance engine: bytes, the 17-bit command word, 3-bit codes, status codes
(00_scope.md R7, R8). Nothing here computes anything. -/

namespace Sys2Proof

/-- A byte, "an unsigned integer in 0..255 (8 bits)" (R8). -/
abbrev Byte := BitVec 8

/-- A raw luminance operand, `RAW_W` = 16 bits unsigned (R7, D3). -/
abbrev Raw := BitVec 16

/-- A transport status code, `CODE_W` = 32 bits, two's complement (R7, D4). -/
abbrev Code := BitVec 32

/-- The host command word, 17 bits (R67). -/
abbrev CmdWord := BitVec 17

/-- A 3-bit code on port `st` (R69) or `res_kind` (R68). -/
abbrev Code3 := BitVec 3

end Sys2Proof
end

