-- ==== Sys2Proof/Config.lean ====
section
/-! DEFINITION. What is fixed for one build of the engine: the constants of 00_scope.md R5 and R7, the open parameters
of R6, and the free values of R31. -/

namespace Sys2Proof

/-! ## Constants the source fixes (R5) and widths the spec decides (R7) -/

def opcGet : Byte := 0x82
def opcSet : Byte := 0x84
def lenGet : Byte := 0x01
def lenSet : Byte := 0x03
def vcpLum : Byte := 0x10
def displayAddr : Byte := 0x6E
def lumMax : Nat := 100
def getFrameLen : Nat := 4
def setFrameLen : Nat := 6
def srcOff : Nat := 0
def valOffHi : Nat := 8
def valOffLo : Nat := 9
/-- `T_DELAY` in milliseconds, a lower bound the platform meets by its tick period (R150); no rule computes with it. -/
def tDelayMs : Nat := 10
def nWrGet : BitVec 2 := 1
def nWrSet : BitVec 2 := 2
def nRdGet : Nat := 1
def nRdSet : Nat := 0

/-- The parameters the source leaves open (R6). `RESP_LEN` in 12..16 and `DELAY_TICKS` at least 1 hold by construction:
the fields hold the amount above the least value. -/
structure Config where
  /-- `SUB_GET`, the sub-address of the get path (OPEN, D5) -/
  subGet : Byte
  /-- `SEED_SET`, the seed of the set path (OPEN, D5) -/
  seedSet : Byte
  /-- `SUB_SET`, the sub-address of the set path (OPEN, D5) -/
  subSet : Byte
  /-- `RESP_LEN` less 12 (OPEN, D7) -/
  respExtra : Fin 5
  /-- `DELAY_TICKS` less 1 (OPEN, D13) -/
  delayExtra : Nat
deriving DecidableEq, Repr, Inhabited

/-- `CK0_GET = DISPLAY_ADDR xor SUB_GET` (R6, R82). -/
def Config.ck0Get (c : Config) : Byte := displayAddr ^^^ c.subGet

/-- `CK0_SET = SEED_SET xor SUB_SET` (R6, R82). -/
def Config.ck0Set (c : Config) : Byte := c.seedSet ^^^ c.subSet

/-- `RESP_LEN`, 12 to 16 (R6). -/
def Config.respLen (c : Config) : Nat := c.respExtra.val + 12

/-- `DELAY_TICKS`, at least 1 (R6). -/
def Config.delayTicks (c : Config) : Nat := c.delayExtra + 1

/-- `DLY_W`, "the smallest width that holds `DELAY_TICKS`" (R20; log 16). -/
def Config.dlyW (c : Config) : Nat := Nat.log2 c.delayTicks + 1

/-- `DELAY_TICKS` as the register `dly` holds it (R27). -/
def Config.dlyLoad (c : Config) : BitVec c.dlyW := BitVec.ofNat c.dlyW c.delayTicks

/-- The parameters of the build at hand: no value is chosen (log 8, DESIGN CHOICE, safe). -/
opaque Config.build : Config

/-- The default instantiation of R6, for concrete tests only: 0x51, 0x6E, 0x51 are general knowledge
(93_implementation_defined.md G1; log 25, PRESUMED), 12 and 1 the spec's own smallest values. -/
def Config.defaults : Config :=
  { subGet := 0x51, seedSet := 0x6E, subSet := 0x51, respExtra := 0, delayExtra := 0 }

/-- The byte an unspecified `res_value` holds at the n-th draw (R31, U16; log 11): nothing constrains it. -/
opaque Config.freeByte : Nat → Byte

/-- The code an unspecified `res_code` holds at the n-th draw (R31, U16; log 11): nothing constrains it. -/
opaque Config.freeCode : Nat → Code

end Sys2Proof
end

