-- ==== Sys2Proof/Syntax.lean ====
section
/-! DEFINITION. The syntax: the names of the sequencer's states and of the result kinds, the encoded words of the six
formats (30_encoding.md R60), and `Instr`, one constructor per row of spec/opcode_table.json (R74). -/

namespace Sys2Proof

/-- Which VcpCommand a request executes, the register `op` and the port `cmd_op` (R22, R67): 0 is get, 1 is set. -/
inductive CmdOp where
  | get
  | set
deriving DecidableEq, Repr, Inhabited

/-- The eight states of the sequencer (R21), in the order of their codes (R69). -/
inductive St where
  | idle
  | building
  | delaying
  | writing
  | reading
  | decoding
  | done
  | failed
deriving DecidableEq, Repr, Inhabited

/-- The seven result kinds (R31), in the order of their codes (R68). -/
inductive ResKind where
  | none
  | value
  | ok
  | connectionUnavailable
  | writeFailed
  | readFailed
  | invalidResponse
deriving DecidableEq, Repr, Inhabited

/-- A word in one of the six formats (R60). `REQ4` and `REQ6` are both byte sequences told apart by their bytes (R71). -/
inductive Encoded where
  /-- a request frame, `REQ4` or `REQ6`; offset 0 first (R9) -/
  | req (bytes : List Byte)
  /-- a response frame, `RESP` (R66); offset 0 first -/
  | resp (bytes : List Byte)
  /-- a host command word, `CMD17` (R67) -/
  | cmd (w : CmdWord)
  /-- a result kind code, `RES3` (R68) -/
  | res (c : Code3)
  /-- a sequencer state code, `STATE3` (R69) -/
  | state (c : Code3)
deriving DecidableEq, Repr

/-- One constructor per row of spec/opcode_table.json (R74). -/
inductive Instr where
  /-- `GET.frame`: the get request frame, with its checksum byte (R61) -/
  | getFrame (cksum : Byte)
  /-- `SET.frame`: the set request frame, with the two value bytes and the checksum byte (R62) -/
  | setFrame (valHi valLo cksum : Byte)
  /-- `GET`: the command word with bit 16 clear; bits 15:0 are no operand, ACCEPT latches them (R67, R91) -/
  | get (value : Raw)
  /-- `SET`: the command word with bit 16 set and the raw operand (R67) -/
  | set (raw : Raw)
  /-- `VCPREPLY`: the response frame; the ignored bytes 1..7, the value bytes 8 and 9, the ignored bytes from 10 (R66) -/
  | vcpReply (mid : List Byte) (curHi curLo : Byte) (tail : List Byte)
  /-- `st.Idle` (R91) -/
  | stIdle
  /-- `st.Building` (R93) -/
  | stBuilding
  /-- `st.Delaying` (R94, R95) -/
  | stDelaying
  /-- `st.Writing` (R96, R97) -/
  | stWriting
  /-- `st.Reading` (R98, R99) -/
  | stReading
  /-- `st.Decoding` (R100) -/
  | stDecoding
  /-- `st.Done` (R107) -/
  | stDone
  /-- `st.Failed` (R127) -/
  | stFailed
  /-- `res.None` (R31) -/
  | resNone
  /-- `res.Value` (R100) -/
  | resValue
  /-- `res.Ok` (R97) -/
  | resOk
  /-- `res.ConnectionUnavailable` (R121) -/
  | resConnectionUnavailable
  /-- `res.WriteFailed` (R122) -/
  | resWriteFailed
  /-- `res.ReadFailed` (R123) -/
  | resReadFailed
  /-- `res.InvalidResponse` (R124) -/
  | resInvalidResponse
deriving DecidableEq, Repr

end Sys2Proof
end

