-- ==== Sys2Proof/Machine/Codec.lean ====
section
/-! DEFINITION. PacketCodec (40_packet_codec.md): the frame encoder, the checksum generator and the response decoder as
pure total functions of their operands and the configuration (R87). -/

namespace Sys2Proof.Machine

/-- `XORFOLD` (R81): `init xor s[0] xor ... xor s[k-1]`, covering exactly the bytes given. -/
def xorFold (init : Byte) : List Byte → Byte
  | [] => init
  | b :: s => xorFold (init ^^^ b) s

/-- `CLAMP` (R80): `min(raw, 100)`, the comparison on all 16 bits, then the low 8 bits. -/
def clamp (raw : Raw) : Byte := BitVec.ofNat 8 (min raw.toNat lumMax)

/-- The high byte of the big-endian split `v16[15:8]` of `zext_16(lum)` (R64). -/
def valHigh (lum : Byte) : Byte := (lum.zeroExtend 16).extractLsb' 8 8

/-- The low byte `v16[7:0]` of `zext_16(lum)` (R64). -/
def valLow (lum : Byte) : Byte := (lum.zeroExtend 16).extractLsb' 0 8

/-- The bytes of a get request frame before its checksum (R61). -/
def getBody : List Byte := [opcGet, lenGet, vcpLum]

/-- The bytes of a set request frame before its checksum (R62). -/
def setBody (valHi valLo : Byte) : List Byte := [opcSet, lenSet, vcpLum, valHi, valLo]

/-- The checksum of a get request frame (R82, R83). -/
def getCksum (cfg : Config) : Byte := xorFold cfg.ck0Get getBody

/-- The checksum of a set request frame with these value bytes (R82, R84). -/
def setCksum (cfg : Config) (valHi valLo : Byte) : Byte := xorFold cfg.ck0Set (setBody valHi valLo)

/-- `BUILD_GET` (R83): the four bytes of the get request frame. -/
def buildGet (cfg : Config) : List Byte := getBody ++ [getCksum cfg]

/-- `BUILD_SET` (R84): the six bytes of the set request frame for a clamped luminance. -/
def buildSet (cfg : Config) (lum : Byte) : List Byte :=
  setBody (valHigh lum) (valLow lum) ++ [setCksum cfg (valHigh lum) (valLow lum)]

/-- The outcome of `DECODE` (R85, R87). -/
inductive Decoded where
  | value (lo : Byte)
  | invalidResponse
deriving DecidableEq, Repr

/-- `DECODE` (R85) on the three bytes it reads, at `SRC_OFF`, `VAL_OFF_HI` and `VAL_OFF_LO`: the source address is
checked, the high byte is read and discarded, the low byte is the result, not clamped. -/
def decodeResponse (src _curHi curLo : Byte) : Decoded :=
  if src = displayAddr then .value curLo else .invalidResponse

end Sys2Proof.Machine
end

