-- ==== Sys2Proof/WellFormed.lean ====
section
/-! DEFINITION. Which instructions are well-formed: a request frame whose checksum byte is the fold of 30_encoding.md R65, a
response frame of `RESP_LEN` bytes (R66). Every other row admits every value of its fields (R67, R70(b)). -/

namespace Sys2Proof

/-- Well-formedness in a configuration. -/
def Instr.wf (cfg : Config) : Instr → Bool
  | .getFrame cksum => cksum == Machine.getCksum cfg
  | .setFrame valHi valLo cksum => cksum == Machine.setCksum cfg valHi valLo
  | .get _ => true
  | .set _ => true
  | .vcpReply mid _ _ tail => mid.length == 7 && tail.length + 10 == cfg.respLen
  | .stIdle => true
  | .stBuilding => true
  | .stDelaying => true
  | .stWriting => true
  | .stReading => true
  | .stDecoding => true
  | .stDone => true
  | .stFailed => true
  | .resNone => true
  | .resValue => true
  | .resOk => true
  | .resConnectionUnavailable => true
  | .resWriteFailed => true
  | .resReadFailed => true
  | .resInvalidResponse => true

end Sys2Proof
end

