-- ==== Sys2Proof/Decode.lean ====
section
/-! DEFINITION. The decoder of the six formats (30_encoding.md R60 to R74), total on any word and rejecting by name, and after
it the encoder, written from the same tables. -/

namespace Sys2Proof

/-! ## Codes of states, kinds and operations -/

/-- The code of a state on port `st` (R69). -/
def stCode : St → Code3
  | .idle => 0
  | .building => 1
  | .delaying => 2
  | .writing => 3
  | .reading => 4
  | .decoding => 5
  | .done => 6
  | .failed => 7

/-- The state with a code; "All eight codes are used" (R69). -/
def stOfCode (c : Code3) : St :=
  if c = 0 then .idle
  else if c = 1 then .building
  else if c = 2 then .delaying
  else if c = 3 then .writing
  else if c = 4 then .reading
  else if c = 5 then .decoding
  else if c = 6 then .done
  else .failed

/-- The code of a result kind on port `res_kind` (R68). -/
def resCodeOf : ResKind → Code3
  | .none => 0
  | .value => 1
  | .ok => 2
  | .connectionUnavailable => 3
  | .writeFailed => 4
  | .readFailed => 5
  | .invalidResponse => 6

/-- The result kind with a code; code 7 is reserved (R68, R70(d)). -/
def resOfCode (c : Code3) : Option ResKind :=
  if c = 0 then some .none
  else if c = 1 then some .value
  else if c = 2 then some .ok
  else if c = 3 then some .connectionUnavailable
  else if c = 4 then some .writeFailed
  else if c = 5 then some .readFailed
  else if c = 6 then some .invalidResponse
  else none

/-- `cmd_op`, bit 16 of the command word (R67). -/
def cmdOpOf (w : CmdWord) : CmdOp := if w.getLsbD 16 then .set else .get

/-- `cmd_value`, bits 15:0 of the command word (R67). -/
def cmdValueOf (w : CmdWord) : Raw := w.extractLsb' 0 16

/-- The command word with this operation and value (R67). -/
def cmdWordOf (op : CmdOp) (value : Raw) : CmdWord :=
  match op with
  | .get => value.setWidth 17
  | .set => value.setWidth 17 ||| 0x10000

/-- The micro-operation done in a state (R74: "each is the work done in one sequencer state"). -/
def instrOfSt : St → Instr
  | .idle => .stIdle
  | .building => .stBuilding
  | .delaying => .stDelaying
  | .writing => .stWriting
  | .reading => .stReading
  | .decoding => .stDecoding
  | .done => .stDone
  | .failed => .stFailed

/-- The row that produces a result kind (R74). -/
def instrOfRes : ResKind → Instr
  | .none => .resNone
  | .value => .resValue
  | .ok => .resOk
  | .connectionUnavailable => .resConnectionUnavailable
  | .writeFailed => .resWriteFailed
  | .readFailed => .resReadFailed
  | .invalidResponse => .resInvalidResponse

/-- The command a command word stands for (R67). -/
def instrOfCmd (w : CmdWord) : Instr :=
  match cmdOpOf w with
  | .get => .get (cmdValueOf w)
  | .set => .set (cmdValueOf w)

/-! ## The decoder -/

/-- Why a word is no row of the table. -/
inductive DecodeError where
  /-- a request frame whose first byte is neither 0x82 nor 0x84 (R70(a)) -/
  | unknownOpcode
  /-- a request frame whose `length` byte does not go with its opcode (R63) -/
  | badLengthByte
  /-- a request frame whose VCP feature code is not 0x10 (R70(a)) -/
  | badVcpCode
  /-- a request frame that is not 4 bytes (get) or 6 bytes (set) long (R71) -/
  | badFrameLength
  /-- a response frame whose source-address byte is not 0x6E (R66, R70(c)) -/
  | badSourceAddress
  /-- a response frame of fewer than 12 or more than 16 bytes (R66) -/
  | badResponseLength
  /-- the result kind code 7 (R68, R70(d)) -/
  | reservedKind
deriving DecidableEq, Repr

/-- A request frame: told apart by the first three bytes (R74), with the length its first byte gives (R71); the
checksum byte is a field, "`match` and `mask` cannot express" its fold. -/
def decodeReq : List Byte → Except DecodeError Instr
  | op :: len :: vcp :: rest =>
    if op = opcGet then
      if len ≠ lenGet then .error .badLengthByte
      else if vcp ≠ vcpLum then .error .badVcpCode
      else match rest with
        | [cksum] => .ok (.getFrame cksum)
        | _ => .error .badFrameLength
    else if op = opcSet then
      if len ≠ lenSet then .error .badLengthByte
      else if vcp ≠ vcpLum then .error .badVcpCode
      else match rest with
        | [valHi, valLo, cksum] => .ok (.setFrame valHi valLo cksum)
        | _ => .error .badFrameLength
    else .error .unknownOpcode
  | _ => .error .badFrameLength

/-- A response frame (R66): byte 0 must be 0x6E, bytes 8 and 9 are the value, the others are any. -/
def decodeResp : List Byte → Except DecodeError Instr
  | src :: b1 :: b2 :: b3 :: b4 :: b5 :: b6 :: b7 :: curHi :: curLo :: tail =>
    if tail.length < 2 ∨ 6 < tail.length then .error .badResponseLength
    else if src ≠ displayAddr then .error .badSourceAddress
    else .ok (.vcpReply [b1, b2, b3, b4, b5, b6, b7] curHi curLo tail)
  | _ => .error .badResponseLength

/-- The decoder of all six formats. -/
def decode : Encoded → Except DecodeError Instr
  | .req bytes => decodeReq bytes
  | .resp bytes => decodeResp bytes
  | .cmd w => .ok (instrOfCmd w)
  | .res c => match resOfCode c with
    | some k => .ok (instrOfRes k)
    | none => .error .reservedKind
  | .state c => .ok (instrOfSt (stOfCode c))

/-! ## The encoder -/

/-- The word of an instruction (R61, R62, R66 to R69). -/
def encode : Instr → Encoded
  | .getFrame cksum => .req [opcGet, lenGet, vcpLum, cksum]
  | .setFrame valHi valLo cksum => .req [opcSet, lenSet, vcpLum, valHi, valLo, cksum]
  | .get value => .cmd (cmdWordOf .get value)
  | .set raw => .cmd (cmdWordOf .set raw)
  | .vcpReply mid curHi curLo tail => .resp (displayAddr :: (mid ++ curHi :: curLo :: tail))
  | .stIdle => .state (stCode .idle)
  | .stBuilding => .state (stCode .building)
  | .stDelaying => .state (stCode .delaying)
  | .stWriting => .state (stCode .writing)
  | .stReading => .state (stCode .reading)
  | .stDecoding => .state (stCode .decoding)
  | .stDone => .state (stCode .done)
  | .stFailed => .state (stCode .failed)
  | .resNone => .res (resCodeOf .none)
  | .resValue => .res (resCodeOf .value)
  | .resOk => .res (resCodeOf .ok)
  | .resConnectionUnavailable => .res (resCodeOf .connectionUnavailable)
  | .resWriteFailed => .res (resCodeOf .writeFailed)
  | .resReadFailed => .res (resCodeOf .readFailed)
  | .resInvalidResponse => .res (resCodeOf .invalidResponse)

/-! ## The opcode table's integer view -/

/-- The `n` bytes of an integer, most significant first: "offset 0 is the most significant byte" (R9, R74). -/
def beBytes : Nat → Nat → List Byte
  | 0, _ => []
  | n + 1, w => BitVec.ofNat 8 (w >>> (8 * n)) :: beBytes n w

/-- The word of the table with this many bits (in whole bytes) and this integer value. A frame's width names its format; a
word of one byte is read as a state code, since `STATE3` and `RES3` share their words (log 13). Bits above a port's width
are no bits of the word. -/
def tableWord (nbits w : Nat) : Encoded :=
  if nbits ≤ 8 then .state (BitVec.ofNat 3 w)
  else if nbits ≤ 24 then .cmd (BitVec.ofNat 17 w)
  else if nbits ≤ 32 then .req (beBytes 4 w)
  else if nbits ≤ 48 then .req (beBytes 6 w)
  else .resp (beBytes (nbits / 8) w)

/-- The instruction the decoder reads from a table word. -/
def decodeTableWord (nbits w : Nat) : Option Instr :=
  match decode (tableWord nbits w) with
  | .ok i => some i
  | .error _ => none

end Sys2Proof
end

