-- ==== Sys2Proof/Machine/State.lean ====
section
/-! DEFINITION. The machine's state as plain data: the registers of 10_state.md R20, the input ports of R34 as last driven,
and the model's own fields (the history of R12, the transaction in flight, the agents' future moves). The fault and refusal
reasons, and the state after reset (R37, R140). -/

namespace Sys2Proof.Machine

/-- A byte-addressed space (R40) as cells with strictly rising addresses, none of them holding what an unlisted address
reads as (log 10). -/
abbrev Memory := List Host.Cell

/-- What an unlisted byte of a buffer reads as: the zero that READ issue and BUILD fill with (R29, R25; at reset log 9 and
log 10, DESIGN CHOICE, unsafe). -/
def Memory.blank : Byte := 0

/-- The interactions recorded in `hist` (R12). -/
inductive Event where
  /-- `EvAccept(op, raw, avail)`: a command was accepted -/
  | accept (op : CmdOp) (raw : Raw) (avail : Bool)
  /-- `EvDelay`: one inter-command delay has fully elapsed -/
  | delay
  /-- `EvWrite(s, status)`: the transport was handed `s` as one write transaction and answered `status` -/
  | write (s : List Byte) (status : Code)
  /-- `EvRead(n, status, data)`: the transport was asked for `n` bytes and answered -/
  | read (n : Nat) (status : Code) (data : List Byte)
  /-- `EvResult(kind, value, code)`: the request ended -/
  | result (kind : ResKind) (value : Byte) (code : Code)
deriving DecidableEq, Repr

/-- A transaction handed to the transport by `MemWrite` or `MemRead` (R45, R46). -/
inductive Transaction where
  | write (s : List Byte)
  | read (n : Nat)
deriving DecidableEq, Repr

/-- Whose event a step is (R11), as the pulses of R34 show it. -/
inductive Turn where
  /-- the engine's own step: no input pulse -/
  | engine
  /-- the host's: `cmd_valid` = 1 -/
  | host
  /-- the timebase's: a pulse on `tick` -/
  | tick
  /-- the transport's: a pulse on `xw_done` -/
  | writeDone
  /-- the transport's: a pulse on `xr_done` -/
  | readDone
deriving DecidableEq, Repr

/-- One future move of an agent (R11, R151). -/
inductive Move where
  /-- the engine takes its own step, if it has one -/
  | engine
  /-- the host offers a command word, `xport_avail` being as given -/
  | offer (word : CmdWord) (avail : Bool)
  /-- the timebase ticks -/
  | tick
  /-- the transport answers a write -/
  | writeDone (status : Code)
  /-- the transport answers a read with `xr_n` = the number of bytes given -/
  | readDone (status : Code) (data : List Byte)
  /-- the host asserts `rst` -/
  | rst
deriving DecidableEq, Repr

/-- Why the machine stops with a fault. "The model has no fault state of its own" on any state a run reaches (R135(a));
these guard states no run reaches (log 14). -/
inductive Fault where
  /-- raised by WRITE issue and WRITE answer when `txlen` is 7: the TX space has offsets 0..5 (R40(a)); safe -/
  | txOffset
  /-- raised by a successful WRITE answer when `wr_left` is 0: the decrement is "taken only when the operand is greater
  than 0" (R86(f)); safe -/
  | writeCountZero
  /-- raised by fetching when the reserved result kind code 7 is directly driven: "a decoder of the port may `fault` on it"
  (93_implementation_defined.md U20, R68; log 7); safe -/
  | reservedKind
deriving DecidableEq, Repr

/-- Why the machine answers no meaning. -/
inductive Refusal where
  /-- raised by an arm of `exec` whose instruction has no meaning yet: no arm does; safe -/
  | notModelled (mnemonic : String)
  /-- raised by READ answer, and by a directly driven response (VCPREPLY), when more than `RESP_LEN` bytes are delivered: "outside the interface: `xr_n`
  cannot express it" (R46, R151; log 15); safe -/
  | overlongRead
deriving DecidableEq, Repr

/-- The whole state. -/
structure State where
  /-- the build's parameters (R6, R35(a); the model's, log 8) -/
  cfg : Config
  /-- `st`, the sequencer state and program counter (R21) -/
  st : St
  /-- `op`, the latched command (R22) -/
  op : CmdOp
  /-- `raw`, the latched raw operand (R23) -/
  raw : Raw
  /-- `lum`, the LuminanceValue (R24) -/
  lum : Byte
  /-- `txbuf[0..5]`, the request frame buffer (R25) -/
  txbuf : Memory
  /-- `txlen`, 3 bits, the number of frame bytes (R25) -/
  txlen : BitVec 3
  /-- `wr_left`, 2 bits, transport writes still to do (R26) -/
  wrLeft : BitVec 2
  /-- `dly`, `DLY_W` bits, ticks still to wait (R27, R133) -/
  dly : BitVec cfg.dlyW
  /-- `pend`, a transport request is issued and not yet answered (R28) -/
  pend : Bool
  /-- `rxbuf[0..RESP_LEN-1]`, the response frame buffer (R29) -/
  rxbuf : Memory
  /-- `ck`, the checksum accumulator (R30; log 17) -/
  ck : Byte
  /-- `res_kind` (R31) -/
  resKind : ResKind
  /-- `res_value` (R31) -/
  resValue : Byte
  /-- `res_code` (R31) -/
  resCode : Code
  /-- whose event the current step is (R11, R34; log 22) -/
  turn : Turn
  /-- `cmd_op` and `cmd_value` as last driven (R34) -/
  cmdWord : CmdWord
  /-- `xport_avail` as last driven (R34) -/
  xportAvail : Bool
  /-- `xw_status` as last driven (R34) -/
  xwStatus : Code
  /-- `xr_status` as last driven (R34) -/
  xrStatus : Code
  /-- the `xr_n` bytes of `xr_data` as last driven (R34) -/
  xrData : List Byte
  /-- the transaction handed over and not yet answered (R45, R46; the model's, log 23) -/
  inflight : Option Transaction
  /-- the event history (R12; the model's, log 18), oldest first -/
  hist : List Event
  /-- the agents' future moves (R11, R35; the model's, log 1), next first -/
  sched : List Move
  /-- a word driven straight into the block that reads its format (the model's, log 7) -/
  direct : Option Encoded
  /-- free values drawn so far (R31; the model's, log 11) -/
  free : Nat
deriving DecidableEq, Repr

/-- The machine right after reset (R37, R140): the four registers the spec gives, every other register at the value log 9
names, nothing in flight, an empty history and no future move (log 1, log 2). -/
def State.reset : State where
  cfg := Config.build
  st := .idle
  op := .get
  raw := 0
  lum := 0
  txbuf := []
  txlen := 0
  wrLeft := 0
  dly := 0
  pend := false
  rxbuf := []
  ck := 0
  resKind := .none
  resValue := 0
  resCode := 0
  turn := .engine
  cmdWord := 0
  xportAvail := false
  xwStatus := 0
  xrStatus := 0
  xrData := []
  inflight := none
  hist := []
  sched := []
  direct := none
  free := 0

end Sys2Proof.Machine
end

