-- ==== Sys2Proof/Machine/Flags.lean ====
section
/-! DEFINITION. The status outputs and the other output ports (10_state.md R32, R34) as functions of the registers: "they
hold no state of their own". The engine has no condition codes; `res_kind` is its only flag (R31). -/

namespace Sys2Proof.Machine

/-- The quiescent states (R107): `Idle`, `Done` and `Failed`. -/
def quiescent : St → Bool
  | .idle | .done | .failed => true
  | .building | .delaying | .writing | .reading | .decoding => false

/-- The states in which a request has ended (R107): `Done` and `Failed`. -/
def ended : St → Bool
  | .done | .failed => true
  | .idle | .building | .delaying | .writing | .reading | .decoding => false

/-- `cmd_ready`: "1 exactly when `st` is `Idle`, `Done` or `Failed`" (R32). -/
def State.cmdReady (s : State) : Bool := quiescent s.st

/-- `busy`: "the complement of `cmd_ready`" (R32). -/
def State.busy (s : State) : Bool := !s.cmdReady

/-- `res_valid`: "1 exactly when `st` is `Done` or `Failed`" (R32). -/
def State.resValid (s : State) : Bool := ended s.st

/-- `xw_req`: "1 while `st = Writing` and the request has not been taken" (R34). -/
def State.xwReq (s : State) : Bool := s.st == .writing && !s.pend

/-- `xr_req`: "1 while `st = Reading` and the request has not been taken" (R34). -/
def State.xrReq (s : State) : Bool := s.st == .reading && !s.pend

/-- `st` on its port, three bits (R34, R69). -/
def State.stPort (s : State) : Code3 := stCode s.st

/-- `res_kind` on its port, three bits (R34, R68). -/
def State.resKindPort (s : State) : Code3 := resCodeOf s.resKind

/-- `xw_len` (R34). -/
def State.xwLen (s : State) : BitVec 3 := s.txlen

/-- `xr_len`, five bits, `RESP_LEN` (R34). -/
def State.xrLen (s : State) : BitVec 5 := BitVec.ofNat 5 s.cfg.respLen

/-- `res_value` is meaningful "only when `res_kind = Value`" (R31). -/
def hasValue : ResKind → Bool
  | .value => true
  | .none | .ok | .connectionUnavailable | .writeFailed | .readFailed | .invalidResponse => false

/-- `res_code` is meaningful "only when `res_kind` is `WriteFailed` or `ReadFailed`" (R31). -/
def hasCode : ResKind → Bool
  | .writeFailed | .readFailed => true
  | .none | .value | .ok | .connectionUnavailable | .invalidResponse => false

/-- The kinds that are errors (R120). -/
def isErrorKind : ResKind → Bool
  | .connectionUnavailable | .writeFailed | .readFailed | .invalidResponse => true
  | .none | .value | .ok => false

/-- A transport status reports failure: "`status = 0` is success; every other value, positive or negative, is failure"
(R45, R86(e)). -/
def statusFailed (status : Code) : Bool := status != 0

end Sys2Proof.Machine
end

