-- ==== Sys2Proof/Machine/Ops.lean ====
section
/-! DEFINITION. The named operations over the buffers and the registers: reading and writing a byte, recording an event,
ending a request, the error entry `raise` (60_exceptions.md R127), loading a request frame, handing a transaction to the
transport, taking a command, reset. -/

namespace Sys2Proof.Machine

/-- What a meaning answers. -/
abbrev Result := Host.Outcome State Fault Refusal

/-! ## The two buffers (20_memory.md R40) -/

/-- One byte of a buffer. -/
def Memory.read : Memory → Nat → Byte
  | [], _ => Memory.blank
  | (k, v) :: m, a => if k = a then v else Memory.read m a

/-- One byte written, the canonical form kept: a byte that reads as an unlisted one is not listed. -/
def Memory.write : Memory → Nat → Byte → Memory
  | [], a, b => if b = Memory.blank then [] else [(a, b)]
  | (k, v) :: m, a, b =>
    if a < k then (if b = Memory.blank then (k, v) :: m else (a, b) :: (k, v) :: m)
    else if a = k then (if b = Memory.blank then m else (a, b) :: m)
    else (k, v) :: Memory.write m a b

/-- Bytes written at rising offsets, the first at `a` (R43). -/
def Memory.writeList : Memory → Nat → List Byte → Memory
  | m, _, [] => m
  | m, a, b :: bs => Memory.writeList (Memory.write m a b) (a + 1) bs

/-- The `n` bytes from offset `a` up. -/
def Memory.readList (m : Memory) (a : Nat) : Nat → List Byte
  | 0 => []
  | n + 1 => Memory.read m a :: Memory.readList m (a + 1) n

/-- The canonical form: addresses strictly rising, no byte that an unlisted address would read as. -/
def Memory.wf : Memory → Bool
  | [] => true
  | (k, v) :: m => v != Memory.blank && m.all (fun c => k < c.1) && Memory.wf m

/-- Every listed address lies below `n`, the size of the space. -/
def Memory.below (n : Nat) (m : Memory) : Bool := m.all (fun c => c.1 < n)

/-- The size of the TX space (R40(a)). -/
def txSize : Nat := setFrameLen

/-! ## History and results -/

/-- `emit E` (R10): append an event to the history. -/
def State.emit (s : State) (e : Event) : State := { s with hist := s.hist ++ [e] }

/-- `res_value` and `res_code` become unspecified (R31, R91): fresh free values (log 11). -/
def State.unspecify (s : State) : State :=
  { s with resValue := Config.freeByte s.free, resCode := Config.freeCode s.free, free := s.free + 1 }

/-- The end of a request (R107): the kind, the value and the code where they are meaningful (a free value where they are
not), the final state, and the event `EvResult(res_kind, res_value, res_code)`. -/
def State.endRequest (s : State) (kind : ResKind) (value : Option Byte) (code : Option Code) (final : St) : State :=
  let u := s.unspecify
  let v := value.getD u.resValue
  let c := code.getD u.resCode
  { u with resKind := kind, resValue := v, resCode := c, st := final }.emit (.result kind v c)

/-- `raise K(info)`, taking an error (R127): `res_kind`, `res_code` where K has one, `st` becomes `Failed`, the event.
"There is no vector, no handler address, no stack, no saved program counter and no mode change." There is no return
instruction either: `Failed` is left by the next acceptance or by reset (R129). -/
def State.raise (s : State) (kind : ResKind) (info : Option Code) : State :=
  s.endRequest kind none info .failed

/-- The successful end of a request (R97, R100): `st` becomes `Done`. -/
def State.complete (s : State) (kind : ResKind) (value : Option Byte) : State :=
  s.endRequest kind value none .done

/-! ## Steps shared by several meanings -/

/-- The frame encoder's output (R83, R84): all six bytes of `txbuf`, zero from the frame's end on (R25), `txlen`, and the
checksum accumulator left at the checksum it copied (R30, log 17). -/
def State.loadFrame (s : State) (bytes : List Byte) : State :=
  { s with
    txbuf := Memory.writeList s.txbuf 0 (bytes ++ List.replicate (txSize - bytes.length) 0)
    txlen := BitVec.ofNat 3 bytes.length
    ck := bytes.getLastD s.ck }

/-- `dly <- DELAY_TICKS; st <- Delaying` (R27, R93, R97). -/
def State.enterDelay (s : State) : State := { s with dly := s.cfg.dlyLoad, st := .delaying }

/-- A tick's count (R94): "if st = Delaying and dly > 0 then dly <- dly - 1". -/
def State.countTick (s : State) : State := if s.dly = 0 then s else { s with dly := s.dly - 1 }

/-- The frame in a frame buffer, `txbuf[0..txlen-1]` (R25); none when `txlen` names an offset the TX space does not have. -/
def frameIn (txbuf : Memory) (txlen : BitVec 3) : Option (List Byte) :=
  if txlen.toNat ≤ txSize then some (Memory.readList txbuf 0 txlen.toNat) else none

/-- The current request frame. -/
def State.txFrame (s : State) : Option (List Byte) := frameIn s.txbuf s.txlen

/-- `MemWrite`/`MemRead` (R45, R46): a transaction is handed to the transport and awaited. -/
def State.issue (s : State) (t : Transaction) : State := { s with inflight := some t, pend := true }

/-- The transport has answered: `pend <- 0` (R97, R99). -/
def State.answered (s : State) : State := { s with inflight := none, pend := false }

/-- `rxbuf` as a whole. -/
def State.setRx (s : State) (m : Memory) : State := { s with rxbuf := m }

/-- A read's bytes enter `rxbuf` from offset 0 up (R46, R99); more than `RESP_LEN` cannot be delivered (log 15). -/
def State.fillRx (s : State) (data : List Byte) : Option State :=
  if data.length ≤ s.cfg.respLen then some (s.setRx (Memory.writeList s.rxbuf 0 data)) else none

/-- The response decoder on `rxbuf` (R85). -/
def State.decodeRx (s : State) : Decoded :=
  decodeResponse (Memory.read s.rxbuf srcOff) (Memory.read s.rxbuf valOffHi) (Memory.read s.rxbuf valOffLo)

/-- DECODE (R100). -/
def State.decodeStep (s : State) : State :=
  match s.decodeRx with
  | .value lo => s.complete .value (some lo)
  | .invalidResponse => s.raise .invalidResponse none

/-- A response delivered and decoded (R46, R85, R100): `rxbuf` zero-filled, the bytes from offset 0 up, then DECODE, so that a
wrong source byte raises `InvalidResponse` (R70(c), R124) and missing bytes read 0x00. -/
def State.deliver (s : State) (bytes : List Byte) : Result :=
  match (s.setRx []).fillRx bytes with
  | some t => .next t.decodeStep
  | none => .refused .overlongRead

/-- ACCEPT (R91, R92): "a command offered while `st` is any other state is not accepted and has no effect at all". -/
def State.accept (s : State) (op : CmdOp) (value : Raw) : State :=
  if s.cmdReady then
    if s.xportAvail then
      { s.unspecify with op := op, raw := value, resKind := .none, st := .building }.emit (.accept op value true)
    else
      ({ s with op := op, raw := value }.emit (.accept op value false)).raise .connectionUnavailable none
  else s

/-- A quiescent state (R107): only an offered command moves it. -/
def State.quiesce (s : State) : State :=
  match s.turn with
  | .host => s.accept (cmdOpOf s.cmdWord) (cmdValueOf s.cmdWord)
  | .engine | .tick | .writeDone | .readDone => s

/-- Reset (R140, R142): every register at its value after reset, the history empty, whatever was in flight forgotten. The
input ports, the build's parameters, the agents' future moves and the count of free values are not the engine's to reset
(log 12). -/
def State.applyReset (s : State) : State :=
  { State.reset with
    cfg := s.cfg, dly := 0, turn := s.turn, cmdWord := s.cmdWord, xportAvail := s.xportAvail, xwStatus := s.xwStatus, xrStatus := s.xrStatus,
    xrData := s.xrData, sched := s.sched, free := s.free }

end Sys2Proof.Machine
end

