-- ==== Sys2Proof/Machine/Operands.lean ====
section
/-! DEFINITION. The operand forms: the luminance operand from the latched command to the frame (30_encoding.md R64, R80),
the frame of the latched command, the bytes of a response frame (R66), the status and data on the transport's ports. -/

namespace Sys2Proof.Machine

/-- The request frame of a command (R83, R84, R93): a SET's operand is clamped first. -/
def requestFrame (cfg : Config) (op : CmdOp) (raw : Raw) : List Byte :=
  match op with
  | .get => buildGet cfg
  | .set => buildSet cfg (clamp raw)

/-- The request frame of the latched command. -/
def State.builtFrame (s : State) : List Byte := requestFrame s.cfg s.op s.raw

/-- The number of transport writes of a command (R26). -/
def writesFor : CmdOp → BitVec 2
  | .get => nWrGet
  | .set => nWrSet

/-- What BUILD leaves in `lum` (R24, R93): the clamped operand of a SET; "For a GET, BUILD does not write it". -/
def lumAfterBuild (op : CmdOp) (raw : Raw) (lum : Byte) : Byte :=
  match op with
  | .get => lum
  | .set => clamp raw

/-- `xw_data`, the six bytes of `txbuf` on their port; only the first `xw_len` are the frame (R34). -/
def State.xwData (s : State) : List Byte := Memory.readList s.txbuf 0 txSize

/-- The bytes of a response frame with these fields (R66), offset 0 first. -/
def replyBytes (mid : List Byte) (curHi curLo : Byte) (tail : List Byte) : List Byte :=
  displayAddr :: (mid ++ curHi :: curLo :: tail)

/-- The low luminance byte in `rxbuf` (R66). -/
def State.curLo (s : State) : Byte := Memory.read s.rxbuf valOffLo

end Sys2Proof.Machine
end

