-- ==== Sys2Proof/Machine/Commands.lean ====
section
/-! DEFINITION. The two host commands (41_transaction_sequencer.md R91, R92): what happens when the command word is offered.
The rest of a command (R101, R102) is the micro-operations of Machine/Sequencer.lean. -/

namespace Sys2Proof.Machine

/-- `GET` (R91, R92, R101): "For a GET, `raw` receives whatever is on `cmd_value` and is never read". -/
def execGet (value : Raw) (s : State) : Result := .next (s.accept .get value)

/-- `SET raw` (R91, R92, R102): the operand is latched as it is; BUILD clamps it. -/
def execSet (raw : Raw) (s : State) : Result := .next (s.accept .set raw)

end Sys2Proof.Machine
end

