-- ==== Sys2Proof/Machine/Frames.lean ====
section
/-! DEFINITION. The frame rows: the request frames as the frame encoder's output (40_packet_codec.md R83, R84; log 5) and
the response frame as the response decoder's input (R85, R100; log 6). -/

namespace Sys2Proof.Machine

/-- `GET.frame` (R61, R83): the frame buffer holds this get request frame. "The engine never checks a request frame"
(R65). -/
def execGetFrame (cksum : Byte) (s : State) : Result := .next (s.loadFrame (getBody ++ [cksum]))

/-- `SET.frame` (R62, R84): the frame buffer holds this set request frame. -/
def execSetFrame (valHi valLo cksum : Byte) (s : State) : Result :=
  .next (s.loadFrame (setBody valHi valLo ++ [cksum]))

/-- `VCPREPLY` (R66, R85, R100): `rxbuf` holds this response frame and the response decoder ends the request with its
outcome. The row's source byte is 0x6E, so the outcome is `Value(cur_lo)`. -/
def execVcpReply (mid : List Byte) (curHi curLo : Byte) (tail : List Byte) (s : State) : Result :=
  s.deliver (replyBytes mid curHi curLo tail)

end Sys2Proof.Machine
end

