-- ==== Sys2Proof/Machine/Results.lean ====
section
/-! DEFINITION. The result rows (30_encoding.md R68, R74): producing each kind, with the `st` and the event of the rule that
produces it (log 4). -/

namespace Sys2Proof.Machine

/-- `res.None` (R31): "no request has ended"; `res_value` and `res_code` are unspecified (R68, R91). -/
def execResNone (s : State) : Result := .next { s.unspecify with resKind := .none }

/-- `res.Value` (R100, R101): the luminance is the low byte in `rxbuf`. -/
def execResValue (s : State) : Result := .next (s.complete .value (some s.curLo))

/-- `res.Ok` (R97). -/
def execResOk (s : State) : Result := .next (s.complete .ok none)

/-- `res.ConnectionUnavailable` (R121, R127). -/
def execResConnectionUnavailable (s : State) : Result := .next (s.raise .connectionUnavailable none)

/-- `res.WriteFailed` (R122, R127): "`res_code` receives the status bit for bit". -/
def execResWriteFailed (s : State) : Result := .next (s.raise .writeFailed (some s.xwStatus))

/-- `res.ReadFailed` (R123, R127). -/
def execResReadFailed (s : State) : Result := .next (s.raise .readFailed (some s.xrStatus))

/-- `res.InvalidResponse` (R124, R127): "`res_code` is not written". -/
def execResInvalidResponse (s : State) : Result := .next (s.raise .invalidResponse none)

end Sys2Proof.Machine
end

