-- ==== Sys2Proof/Machine/Sequencer.lean ====
section
/-! DEFINITION. The micro-operations of the sequencer (41_transaction_sequencer.md R93 to R100), one meaning per sequencer
state. Each meaning says what each agent's event does in that state; an event that no rule names there changes nothing
(R11, R94, R104). -/

namespace Sys2Proof.Machine

/-- `st.Idle`: waits for a command (R91, R141). -/
def execStIdle (s : State) : Result := .next s.quiesce

/-- BUILD (R93): the clamp and the build in one step. -/
def State.build (s : State) : State :=
  { s.loadFrame s.builtFrame with lum := lumAfterBuild s.op s.raw s.lum, wrLeft := writesFor s.op }.enterDelay

/-- `st.Building`: BUILD (R93). -/
def execStBuilding (s : State) : Result :=
  match s.turn with
  | .engine => .next s.build
  | .host | .tick | .writeDone | .readDone => .next s

/-- DELAY expiry (R95), and the wait while `dly > 0` (R105, R135(b)). -/
def State.expire (s : State) : State :=
  if s.dly = 0 then { s with st := if s.wrLeft = 0 then .reading else .writing }.emit .delay else s

/-- `st.Delaying`: TICK (R94) and DELAY expiry (R95). -/
def execStDelaying (s : State) : Result :=
  match s.turn with
  | .engine => .next s.expire
  | .tick => .next s.countTick
  | .host | .writeDone | .readDone => .next s

/-- WRITE issue (R96). -/
def writeIssue (s : State) : Result :=
  match s.txFrame with
  | some f => .next (s.issue (.write f))
  | none => .fault .txOffset

/-- WRITE answer (R97). -/
def writeAnswer (s : State) : Result :=
  match s.txFrame with
  | none => .fault .txOffset
  | some f =>
    let t := s.answered.emit (.write f s.xwStatus)
    if statusFailed s.xwStatus then .next (t.raise .writeFailed (some s.xwStatus))
    else if s.wrLeft = 0 then .fault .writeCountZero
    else
      let left : BitVec 2 := s.wrLeft - 1
      let u : State := { t with wrLeft := left }
      if left ≠ 0 ∨ s.op = .get then .next u.enterDelay else .next (u.complete .ok none)

/-- `st.Writing`: WRITE issue while nothing is pending (R96), WRITE answer while the transport is awaited (R97). The engine
waits for the answer for ever (R105); a stray `xw_done` finds `pend` = 0 and is ignored (R148(d)). -/
def execStWriting (s : State) : Result :=
  match s.turn with
  | .engine => if s.pend then .next s else writeIssue s
  | .writeDone => if s.pend then writeAnswer s else .next s
  | .host | .tick | .readDone => .next s

/-- READ issue (R98): the buffer zero-filled, `RESP_LEN` bytes asked for. -/
def readIssue (s : State) : Result := .next ((s.setRx []).issue (.read s.cfg.respLen))

/-- READ answer (R99). -/
def readAnswer (s : State) : Result :=
  match s.fillRx s.xrData with
  | none => .refused .overlongRead
  | some filled =>
    let e := Event.read s.cfg.respLen s.xrStatus s.xrData
    if statusFailed s.xrStatus then .next ((s.answered.emit e).raise .readFailed (some s.xrStatus))
    else .next ({ filled with st := .decoding }.answered.emit e)

/-- `st.Reading`: READ issue while nothing is pending (R98), READ answer while the transport is awaited (R99). -/
def execStReading (s : State) : Result :=
  match s.turn with
  | .engine => if s.pend then .next s else readIssue s
  | .readDone => if s.pend then readAnswer s else .next s
  | .host | .tick | .writeDone => .next s

/-- `st.Decoding`: the DECODE step (R100). -/
def execStDecoding (s : State) : Result :=
  match s.turn with
  | .engine => .next s.decodeStep
  | .host | .tick | .writeDone | .readDone => .next s

/-- `st.Done`: the request has ended; the result stays until the next acceptance (R107, R32). -/
def execStDone (s : State) : Result := .next s.quiesce

/-- `st.Failed`: "the engine stops in `Failed` and the host reads the result" (R127); left "exactly as `Done` is" (R129). -/
def execStFailed (s : State) : Result := .next s.quiesce

end Sys2Proof.Machine
end

