-- ==== Sys2Proof/Machine/Dispatch.lean ====
section
/-! DEFINITION. One arm per row of spec/opcode_table.json (30_encoding.md R74). -/

namespace Sys2Proof.Machine

/-- The meaning of an instruction. -/
def exec (i : Instr) (s : State) : Host.Outcome State Fault Refusal :=
  match i with
  | .getFrame cksum => Sys2Proof.Machine.execGetFrame cksum s
  | .setFrame valHi valLo cksum => Sys2Proof.Machine.execSetFrame valHi valLo cksum s
  | .get value => Sys2Proof.Machine.execGet value s
  | .set raw => Sys2Proof.Machine.execSet raw s
  | .vcpReply mid curHi curLo tail => Sys2Proof.Machine.execVcpReply mid curHi curLo tail s
  | .stIdle => Sys2Proof.Machine.execStIdle s
  | .stBuilding => Sys2Proof.Machine.execStBuilding s
  | .stDelaying => Sys2Proof.Machine.execStDelaying s
  | .stWriting => Sys2Proof.Machine.execStWriting s
  | .stReading => Sys2Proof.Machine.execStReading s
  | .stDecoding => Sys2Proof.Machine.execStDecoding s
  | .stDone => Sys2Proof.Machine.execStDone s
  | .stFailed => Sys2Proof.Machine.execStFailed s
  | .resNone => Sys2Proof.Machine.execResNone s
  | .resValue => Sys2Proof.Machine.execResValue s
  | .resOk => Sys2Proof.Machine.execResOk s
  | .resConnectionUnavailable => Sys2Proof.Machine.execResConnectionUnavailable s
  | .resWriteFailed => Sys2Proof.Machine.execResWriteFailed s
  | .resReadFailed => Sys2Proof.Machine.execResReadFailed s
  | .resInvalidResponse => Sys2Proof.Machine.execResInvalidResponse s

end Sys2Proof.Machine
end

