-- ==== Sys2Proof/Machine/Fetch.lean ====
section
/-! DEFINITION. Fetching: which agent moves next, what its move drives onto the input ports, and the instruction that is
read. The engine's program counter is `st` (10_state.md R21); a host command is read from the command port (R34, R67). -/

namespace Sys2Proof.Machine

/-- The next agent's move: the first one of `sched`; with none left, the engine's own turn (log 1). -/
def State.nextMove (s : State) : Move := s.sched.headD .engine

/-- Whose event a move is (R11). -/
def Move.turn : Move → Turn
  | .engine | .rst => .engine
  | .offer _ _ => .host
  | .tick => .tick
  | .writeDone _ => .writeDone
  | .readDone _ _ => .readDone

/-- `cmd_op` and `cmd_value` after a move, from the levels held before it. -/
def Move.cmdWord (held : CmdWord) : Move → CmdWord
  | .offer word _ => word
  | .engine | .tick | .writeDone _ | .readDone _ _ | .rst => held

/-- `xport_avail` after a move. -/
def Move.xportAvail (held : Bool) : Move → Bool
  | .offer _ avail => avail
  | .engine | .tick | .writeDone _ | .readDone _ _ | .rst => held

/-- `xw_status` after a move. -/
def Move.xwStatus (held : Code) : Move → Code
  | .writeDone status => status
  | .engine | .offer _ _ | .tick | .readDone _ _ | .rst => held

/-- `xr_status` after a move. -/
def Move.xrStatus (held : Code) : Move → Code
  | .readDone status _ => status
  | .engine | .offer _ _ | .tick | .writeDone _ | .rst => held

/-- The `xr_n` bytes of `xr_data` after a move. -/
def Move.xrData (held : List Byte) : Move → List Byte
  | .readDone _ data => data
  | .engine | .offer _ _ | .tick | .writeDone _ | .rst => held

/-- The input ports as a move drives them, the move taken off the list (R34). `xport_avail`, the statuses and the data keep
the level last driven; only the event's own port pulses (log 22). -/
def State.drive (s : State) (m : Move) : State :=
  { s with
    sched := s.sched.tail
    turn := m.turn
    cmdWord := m.cmdWord s.cmdWord
    xportAvail := m.xportAvail s.xportAvail
    xwStatus := m.xwStatus s.xwStatus
    xrStatus := m.xrStatus s.xrStatus
    xrData := m.xrData s.xrData }

/-- The word the engine fetches: the command port's when the host offers a command, else the code of `st`. -/
def State.fetchWord (s : State) : Encoded :=
  match s.turn with
  | .host => .cmd s.cmdWord
  | .engine | .tick | .writeDone | .readDone => .state (stCode s.st)

/-- What a fetch answers. -/
inductive Fetched where
  /-- the instruction to run, and the state it runs in -/
  | run (i : Instr) (s : State)
  /-- `rst` is asserted: "`rst` wins over everything" (R126) -/
  | reset (s : State)
  /-- a response that is no row of the table: the response decoder reads it all the same (R70(c), R85) -/
  | respond (bytes : List Byte) (s : State)
  /-- a word that no block of the engine reads -/
  | unread (s : State)
  /-- the reserved kind code -/
  | stop (f : Fault)
deriving DecidableEq, Repr

/-- A word decoded for running in a state. Of the words that are no row, a response is what a read delivered and is decoded
(R85, R124), the kind code 7 faults (R68, U20), and a request frame is one "never emitted" (R70(a)) and never checked (R65), so
that nothing reads it (log 7). Command words and state codes always decode (R67, R69). -/
def fetchFrom (w : Encoded) (s : State) : Fetched :=
  match decode w with
  | .ok i => .run i s
  | .error _ =>
    match w with
    | .resp bytes => .respond bytes s
    | .res _ => .stop .reservedKind
    | .req _ | .cmd _ | .state _ => .unread s

/-- The fetch of one step. A directly driven word comes before every agent's move and is consumed (log 7). -/
def fetch (s : State) : Fetched :=
  match s.direct with
  | some w => fetchFrom w { s with direct := none, turn := .engine }
  | none =>
    if s.nextMove = .rst then .reset (s.drive .rst).applyReset
    else fetchFrom (s.drive s.nextMove).fetchWord (s.drive s.nextMove)

/-- A word put where the next step fetches: a state code into `st`, at the engine's turn; a command word onto the command
port, the transport acquired; a frame or a result code before the block that reads it (log 2, log 7). -/
def State.place (s : State) : Encoded → State
  | .state c => { s with st := stOfCode c, direct := none, sched := .engine :: s.sched }
  | .cmd w => { s with direct := none, sched := .offer w true :: s.sched }
  | .req bytes => { s with direct := some (.req bytes) }
  | .resp bytes => { s with direct := some (.resp bytes) }
  | .res c => { s with direct := some (.res c) }

end Sys2Proof.Machine
end

