-- ==== Sys2Proof/Machine/Step.lean ====
section
/-! DEFINITION. One step: one agent's move (00_scope.md R11, R14). -/

namespace Sys2Proof.Machine

/-- Fetch, then run what was fetched. -/
def step (s : State) : Host.Outcome State Fault Refusal :=
  match fetch s with
  | .run i t => exec i t
  | .reset t => .next t
  | .respond bytes t => t.deliver bytes
  | .unread t => .next t
  | .stop f => .fault f

/-- The instruction with these table bits put where the next step fetches. -/
def State.withFetchWord (s : State) (nbits w : Nat) : State := s.place (tableWord nbits w)

end Sys2Proof.Machine
end

