-- ==== Sys2Proof/Machine/Reference.lean ====
section
/-! DEFINITION. The reference procedures of 41_transaction_sequencer.md R106: the result and the history of a whole command
from the transport's answers. "They restate rules R101 and R102 and add nothing." -/

namespace Sys2Proof.Machine

/-- What a reference procedure answers: the kind, the value and the code where the kind has one, and the history without
`EvAccept` and `EvResult`. -/
structure RefResult where
  kind : ResKind
  value : Option Byte
  code : Option Code
  events : List Event
deriving DecidableEq, Repr

/-- The get request frame as R106 writes it: `fG = [0x82, 0x01, 0x10, CK0_GET xor 0x93]`. -/
def refFrameGet (cfg : Config) : List Byte := [0x82, 0x01, 0x10, cfg.ck0Get ^^^ 0x93]

/-- The set request frame as R106 writes it: `fS = [0x84, 0x03, 0x10, 0x00, l, CK0_SET xor 0x97 xor l]`, `l = min(raw, 100)`. -/
def refFrameSet (cfg : Config) (raw : Raw) : List Byte :=
  let l : Byte := if raw.toNat ≤ 100 then raw.setWidth 8 else 100
  [0x84, 0x03, 0x10, 0x00, l, cfg.ck0Set ^^^ 0x97 ^^^ l]

/-- `get(avail, w1, (r, data))` (R106). -/
def refGet (cfg : Config) (avail : Bool) (w1 r : Code) (data : List Byte) : RefResult :=
  let f := refFrameGet cfg
  if avail = false then ⟨.connectionUnavailable, none, none, []⟩
  else if w1 ≠ 0 then ⟨.writeFailed, none, some w1, [.delay, .write f w1]⟩
  else if r ≠ 0 then ⟨.readFailed, none, some r, [.delay, .write f 0, .delay, .read cfg.respLen r data]⟩
  else
    let b := data ++ List.replicate (cfg.respLen - data.length) 0
    if b.getD 0 0 ≠ 0x6E then
      ⟨.invalidResponse, none, none, [.delay, .write f 0, .delay, .read cfg.respLen 0 data]⟩
    else ⟨.value, some (b.getD 9 0), none, [.delay, .write f 0, .delay, .read cfg.respLen 0 data]⟩

/-- `set(avail, raw, w1, w2)` (R106). -/
def refSet (cfg : Config) (avail : Bool) (raw : Raw) (w1 w2 : Code) : RefResult :=
  let f := refFrameSet cfg raw
  if avail = false then ⟨.connectionUnavailable, none, none, []⟩
  else if w1 ≠ 0 then ⟨.writeFailed, none, some w1, [.delay, .write f w1]⟩
  else if w2 ≠ 0 then ⟨.writeFailed, none, some w2, [.delay, .write f 0, .delay, .write f w2]⟩
  else ⟨.ok, none, none, [.delay, .write f 0, .delay, .write f 0]⟩

end Sys2Proof.Machine
end

