-- ==== Sys2Proof/Machine/Script.lean ====
section
/-! DEFINITION. The textual programs of 30_encoding.md R72 and the agents' moves they stand for (95_test_vectors.md: a timebase
that keeps ticking, answers consumed in order; log 24). -/

namespace Sys2Proof.Machine

/-- One answer of a transport script (R72). -/
inductive Answer where
  /-- `W=c` -/
  | write (status : Code)
  /-- `R=c`, or `R=0:[b0 b1 ...]` -/
  | read (status : Code) (data : List Byte)
deriving DecidableEq, Repr

/-- One line of a program (R72). -/
inductive Line where
  /-- `GET` or `SET n`, `@noxport` where `avail` is false, with its transport script -/
  | command (op : CmdOp) (value : Raw) (avail : Bool) (script : List Answer)
  /-- `RESET` -/
  | reset
deriving DecidableEq, Repr

/-! ## What a line stands for -/

/-- The move in which the transport gives an answer. -/
def Answer.move : Answer → Move
  | .write status => .writeDone status
  | .read status data => .readDone status data

/-- One full delay, its expiry and the issue of the transaction that follows it (R94, R95, R96, R98). -/
def delayAndIssue (cfg : Config) : List Move :=
  List.replicate cfg.delayTicks .tick ++ [.engine, .engine]

/-- The moves of one line: the offer, BUILD, one delay, issue and answer for each scripted answer, then a last delay, its
expiry or DECODE, and an issue that is not answered (program P8). A request that ends early ignores what is left. -/
def Line.moves (cfg : Config) : Line → List Move
  | .command op value avail script =>
    .offer (cmdWordOf op value) avail :: .engine ::
      (script.flatMap fun a => delayAndIssue cfg ++ [a.move]) ++ delayAndIssue cfg
  | .reset => [.rst]

/-- The moves of a program. -/
def programMoves (cfg : Config) (lines : List Line) : List Move := lines.flatMap (Line.moves cfg)

/-! ## Reading a line's text -/

/-- The value of a digit, decimal or hexadecimal. -/
def digitVal (c : Char) : Option Nat :=
  let n := c.toNat
  if 48 ≤ n ∧ n ≤ 57 then some (n - 48)
  else if 65 ≤ n ∧ n ≤ 70 then some (n - 55)
  else if 97 ≤ n ∧ n ≤ 102 then some (n - 87)
  else none

/-- The digits in front, in a base, added to what was read; and the text after them. -/
def readDigits (base : Nat) : List Char → Nat → Nat × List Char
  | [], acc => (acc, [])
  | c :: cs, acc =>
    match digitVal c with
    | some d => if d < base then readDigits base cs (acc * base + d) else (acc, c :: cs)
    | none => (acc, c :: cs)

/-- At least one digit in a base. -/
def readBase (base : Nat) : List Char → Option (Nat × List Char)
  | [] => none
  | c :: cs =>
    match digitVal c with
    | some d => if d < base then some (readDigits base (c :: cs) 0) else none
    | none => none

/-- A decimal or `0x` hexadecimal number. -/
def readNumber : List Char → Option (Nat × List Char)
  | '0' :: 'x' :: cs => readBase 16 cs
  | cs => readBase 10 cs

/-- A status, with an optional minus sign, in `CODE_W` bits of two's complement (R7). -/
def readStatus : List Char → Option (Code × List Char)
  | '-' :: cs => (readNumber cs).map fun p => (BitVec.ofInt 32 (-(p.1 : Int)), p.2)
  | cs => (readNumber cs).map fun p => (BitVec.ofNat 32 p.1, p.2)

/-- Spaces skipped. -/
def skipSpaces : List Char → List Char
  | ' ' :: cs => skipSpaces cs
  | cs => cs

/-- A fixed text in front. -/
def eat : List Char → List Char → Option (List Char)
  | [], cs => some cs
  | _ :: _, [] => none
  | p :: ps, c :: cs => if p = c then eat ps cs else none

/-- The bytes of `[b0 b1 ...]`, two hexadecimal digits each, after the opening bracket. -/
def readBytes : List Char → Option (List Byte × List Char)
  | [] => none
  | ' ' :: cs => readBytes cs
  | ']' :: cs => some ([], cs)
  | [_] => none
  | a :: b :: cs =>
    match digitVal a, digitVal b, readBytes cs with
    | some x, some y, some (bs, rest) => some (BitVec.ofNat 8 (16 * x + y) :: bs, rest)
    | _, _, _ => none

/-- One answer: `W=c`, `R=c` or `R=0:[...]`. -/
def readAnswerText (cs : List Char) : Option (Answer × List Char) :=
  match cs with
  | 'W' :: '=' :: rest => (readStatus rest).map fun p => (.write p.1, p.2)
  | 'R' :: '=' :: '0' :: ':' :: '[' :: rest => (readBytes rest).map fun p => (.read 0 p.1, p.2)
  | 'R' :: '=' :: rest => (readStatus rest).map fun p => (.read p.1 [], p.2)
  | _ => none

/-- A comma-separated list of answers that ends the line; the first argument bounds how many there are. -/
def readAnswers : Nat → List Char → Option (List Answer)
  | 0, _ => none
  | n + 1, cs =>
    match readAnswerText (skipSpaces cs) with
    | none => none
    | some (a, rest) =>
      match skipSpaces rest with
      | [] => some [a]
      | ',' :: more => (readAnswers n more).map (a :: ·)
      | _ => none

/-- What may follow a command: `@noxport`, then `|` and a script. -/
def readSuffix (op : CmdOp) (value : Raw) (cs : List Char) : Option Line :=
  let cs := skipSpaces cs
  let (avail, cs) := match eat "@noxport".toList cs with
    | some rest => (false, skipSpaces rest)
    | none => (true, cs)
  match cs with
  | [] => some (.command op value avail [])
  | '|' :: script => (readAnswers script.length script).map fun answers => .command op value avail answers
  | _ => none

/-- One line of a program: `GET`, `SET n` with `n` in 0..65535, or `RESET` (R72). -/
def readLine (cs : List Char) : Option Line :=
  if cs = "RESET".toList then some .reset
  else match eat "GET".toList cs with
    | some rest => readSuffix .get 0 rest
    | none =>
      match eat "SET ".toList cs with
      | none => none
      | some rest =>
        match readNumber (skipSpaces rest) with
        | some (n, more) => if n < 65536 then readSuffix .set (BitVec.ofNat 16 n) more else none
        | none => none

end Sys2Proof.Machine
end

