-- ==== Sys2Proof/Safety.lean ====
section
/-! DEFINITION. What counts as a safe state: the invariants of 10_state.md R38 with what they need to be kept by every step,
the history a request has at each position (41_transaction_sequencer.md R101, R102; 60_exceptions.md R128), and the rows of
the transition table R104. -/

namespace Sys2Proof.Machine

/-- The state is one in which a request's frame has been built and is still to be used (R38(b)). -/
def St.framed : St → Bool
  | .delaying | .writing | .reading | .decoding => true
  | .idle | .building | .done | .failed => false

/-- A SET's BUILD lies behind, and no ACCEPT since (R38(f)). -/
def State.setBuilt (s : State) : Bool :=
  s.op == .set && (s.st == .delaying || s.st == .writing || s.st == .done || (s.st == .failed && s.resKind == .writeFailed))

/-- The length of the request frame of a command (R5, R25). -/
def frameLen : CmdOp → BitVec 3
  | .get => 4
  | .set => 6

/-- The invariants of R38, (a) to (h), and what keeps them: the position in a delay, the canonical form of the two buffers
(R40), what the transport has been handed (R45, R46), and that no word is driven directly (log 7). -/
structure Inv (s : State) : Prop where
  /-- R38(a) -/
  busyHasNoResult : s.busy = true → s.resKind = .none
  /-- R38(b), the length -/
  frameLength : St.framed s.st = true → s.txlen = frameLen s.op
  /-- R38(b), the bytes -/
  frameBytes : St.framed s.st = true → s.txFrame = some s.builtFrame
  /-- R38(c) -/
  writingCount : s.st = .writing → s.wrLeft = 1 ∨ (s.wrLeft = 2 ∧ s.op = .set)
  /-- R38(d) -/
  readingIsGet : s.st = .reading ∨ s.st = .decoding → s.op = .get ∧ s.wrLeft = 0
  /-- the writes still to do in a delay (R26, R90) -/
  delayingCount : s.st = .delaying →
    (s.op = .get ∧ (s.wrLeft = 0 ∨ s.wrLeft = 1)) ∨ (s.op = .set ∧ (s.wrLeft = 1 ∨ s.wrLeft = 2))
  /-- R38(e) -/
  pendingStates : s.pend = true → s.st = .writing ∨ s.st = .reading
  /-- R38(f), R24 -/
  luminanceInRange : s.setBuilt = true → s.lum = clamp s.raw ∧ s.lum.toNat ≤ 100
  /-- R38(g), `Done` -/
  doneKind : s.st = .done → (s.resKind = .value ∧ s.op = .get) ∨ (s.resKind = .ok ∧ s.op = .set)
  /-- R38(g), `Failed` -/
  failedKind : s.st = .failed → isErrorKind s.resKind = true
  /-- R38(g), `Idle` -/
  idleKind : s.st = .idle → s.resKind = .none
  /-- R120: "`SET` can raise only `ConnectionUnavailable` and `WriteFailed`" -/
  setFailure : s.st = .failed → s.op = .set → s.resKind = .connectionUnavailable ∨ s.resKind = .writeFailed
  /-- R38(h) -/
  delayBound : s.st = .delaying → s.dly.toNat ≤ s.cfg.delayTicks
  /-- the TX space is canonical and has offsets 0..5 (R40(a)) -/
  txSpace : Memory.wf s.txbuf = true ∧ Memory.below txSize s.txbuf = true
  /-- the RX space is canonical and has offsets 0..RESP_LEN-1 (R40(b)) -/
  rxSpace : Memory.wf s.rxbuf = true ∧ Memory.below s.cfg.respLen s.rxbuf = true
  /-- nothing pending, nothing in flight (R50(a)) -/
  nothingInFlight : s.pend = false → s.inflight = none
  /-- a pending write is the whole frame (R45, R148(c)) -/
  writeInFlight : s.pend = true → s.st = .writing → s.inflight = some (.write s.builtFrame)
  /-- a pending read asks for `RESP_LEN` bytes into a zero-filled buffer (R46, R98) -/
  readInFlight : s.pend = true → s.st = .reading → s.inflight = some (.read s.cfg.respLen) ∧ s.rxbuf = []
  /-- no word is driven directly (log 7) -/
  noDirect : s.direct = none

/-- The first transaction of the request with its delay: one delay and one successful write of the frame. -/
def firstWrite (s : State) : List Event := [.delay, .write s.builtFrame 0]

/-- A response as delivered: byte `k` of `data ++ zeros` (R101). -/
def delivered (data : List Byte) (k : Nat) : Byte := data.getD k 0

/-- `EvResult(res_kind, res_value, res_code)` as the registers now stand (R107). -/
def State.resultEvent (s : State) : Event := .result s.resKind s.resValue s.resCode

/-- The events of the request at this position, from after its `EvAccept` (R101, R102, R128). -/
def requestEvents (s : State) (evs : List Event) : Prop :=
  match s.st with
  | .idle => False
  | .building => evs = []
  | .delaying =>
    if s.wrLeft = writesFor s.op then evs = [] else evs = firstWrite s
  | .writing =>
    if s.wrLeft = writesFor s.op then evs = [.delay] else evs = firstWrite s ++ [.delay]
  | .reading => evs = firstWrite s ++ [.delay]
  | .decoding => ∃ data, evs = firstWrite s ++ [.delay, .read s.cfg.respLen 0 data] ∧ data.length ≤ s.cfg.respLen ∧
      s.rxbuf = Memory.writeList [] 0 data
  | .done =>
    match s.op with
    | .get => ∃ data, evs = firstWrite s ++ [.delay, .read s.cfg.respLen 0 data, s.resultEvent] ∧
        delivered data srcOff = displayAddr ∧ s.resValue = delivered data valOffLo
    | .set => evs = firstWrite s ++ [.delay, .write s.builtFrame 0, s.resultEvent]
  | .failed =>
    match s.resKind with
    | .connectionUnavailable => evs = [s.resultEvent]
    | .writeFailed => s.resCode ≠ 0 ∧
        (evs = [.delay, .write s.builtFrame s.resCode, s.resultEvent] ∨
          (s.op = .set ∧ evs = firstWrite s ++ [.delay, .write s.builtFrame s.resCode, s.resultEvent]))
    | .readFailed => s.resCode ≠ 0 ∧ s.op = .get ∧
        ∃ data, evs = firstWrite s ++ [.delay, .read s.cfg.respLen s.resCode data, s.resultEvent]
    | .invalidResponse => s.op = .get ∧
        ∃ data, evs = firstWrite s ++ [.delay, .read s.cfg.respLen 0 data, s.resultEvent] ∧
          delivered data srcOff ≠ displayAddr
    | .none | .value | .ok => False

/-- `xport_avail` as the current request's acceptance saw it (R91, R92). -/
def State.acceptedAvail (s : State) : Bool := decide (s.st = .failed → s.resKind ≠ .connectionUnavailable)

/-- The history of the current request is the one its position calls for; in `Idle` there is none yet (R12, R128, R140). -/
def HistoryFits (s : State) : Prop :=
  if s.st = .idle then s.hist = []
  else ∃ before evs, s.hist = before ++ .accept s.op s.raw s.acceptedAvail :: evs ∧ requestEvents s evs

/-- The registers of R20 hold the same values. -/
def SameRegisters (s t : State) : Prop :=
  t.st = s.st ∧ t.op = s.op ∧ t.raw = s.raw ∧ t.lum = s.lum ∧ t.txbuf = s.txbuf ∧ t.txlen = s.txlen ∧
  t.wrLeft = s.wrLeft ∧ t.dly.toNat = s.dly.toNat ∧ t.pend = s.pend ∧ t.rxbuf = s.rxbuf ∧ t.ck = s.ck ∧
  t.resKind = s.resKind ∧ t.resValue = s.resValue ∧ t.resCode = s.resCode

/-- A row of the transition table of R104, in its order: the state left and its condition on the registers and the agent's
move, and the state entered. -/
def TransitionRow (s : State) (m : Move) (t : State) : Prop :=
  (s.cmdReady = true ∧ (∃ w, m = .offer w true) ∧ t.st = .building) ∨
  (s.cmdReady = true ∧ (∃ w, m = .offer w false) ∧ t.st = .failed) ∨
  (s.st = .building ∧ m = .engine ∧ t.st = .delaying) ∨
  (s.st = .delaying ∧ s.dly ≠ 0 ∧ m = .tick ∧ t.st = .delaying) ∨
  (s.st = .delaying ∧ s.dly = 0 ∧ s.wrLeft ≠ 0 ∧ m = .engine ∧ t.st = .writing) ∨
  (s.st = .delaying ∧ s.dly = 0 ∧ s.wrLeft = 0 ∧ m = .engine ∧ t.st = .reading) ∨
  (s.st = .writing ∧ s.pend = false ∧ m = .engine ∧ t.st = .writing ∧ t.pend = true) ∨
  (s.st = .writing ∧ s.pend = true ∧ (∃ c, m = .writeDone c ∧ c ≠ 0) ∧ t.st = .failed) ∨
  (s.st = .writing ∧ s.pend = true ∧ m = .writeDone 0 ∧ (s.wrLeft = 2 ∨ s.op = .get) ∧ t.st = .delaying) ∨
  (s.st = .writing ∧ s.pend = true ∧ m = .writeDone 0 ∧ s.wrLeft = 1 ∧ s.op = .set ∧ t.st = .done) ∨
  (s.st = .reading ∧ s.pend = false ∧ m = .engine ∧ t.st = .reading ∧ t.pend = true) ∨
  (s.st = .reading ∧ s.pend = true ∧ (∃ c d, m = .readDone c d ∧ c ≠ 0) ∧ t.st = .failed) ∨
  (s.st = .reading ∧ s.pend = true ∧ (∃ d, m = .readDone 0 d) ∧ t.st = .decoding) ∨
  (s.st = .decoding ∧ m = .engine ∧ Memory.read s.rxbuf srcOff = displayAddr ∧ t.st = .done) ∨
  (s.st = .decoding ∧ m = .engine ∧ Memory.read s.rxbuf srcOff ≠ displayAddr ∧ t.st = .failed)

/-- The engine waits for another agent: for the transport, or for a tick (R135(b)). -/
def State.waits (s : State) : Bool :=
  match s.st with
  | .writing | .reading => s.pend
  | .delaying => s.dly != 0
  | .idle | .building | .decoding | .done | .failed => false

/-- What the transport may not do: deliver more than `RESP_LEN` bytes (R46, R151). -/
def Move.withinInterface (cfg : Config) : Move → Bool
  | .readDone _ data => data.length ≤ cfg.respLen
  | .engine | .offer _ _ | .tick | .writeDone _ | .rst => true

end Sys2Proof.Machine
end

