-- ==== Sys2Proof/Certificates/Slice0/Obligations.lean ====
section
/-! DEFINITION. The statements for the provers, from the numbered rules of spec/. A next state is given as the state before
with the fields that change: every field not named is unchanged, which is the frame. Where a field is set to its own value in
the next state (`resValue := t.resValue`) the spec leaves it unspecified and the statement constrains it in no way. -/

open Sys2Proof Sys2Proof.Machine

/-! ## Fetching, decoding, encoding -/

/-- A step runs the instruction the fetched word decodes to, in the state whose input ports the move has driven and whose
list of moves has lost that move; a directly driven word comes first and is consumed (log 1, log 7). -/
def Obligations.StepRunsTheDecodedInstruction : Prop :=
  (∀ (s : State) (i : Instr), s.direct = none → s.nextMove ≠ .rst → decode (s.drive s.nextMove).fetchWord = .ok i →
    step s = exec i (s.drive s.nextMove) ∧ (s.drive s.nextMove).sched = s.sched.tail) ∧
  (∀ (s : State) (w : CmdWord) (a : Bool), (s.drive (.offer w a)).fetchWord = .cmd w) ∧
  (∀ (s : State) (m : Move), (∀ w a, m ≠ .offer w a) → m ≠ .rst → (s.drive m).fetchWord = .state (stCode s.st)) ∧
  (∀ (s : State) (w : Encoded) (i : Instr), s.direct = some w → decode w = .ok i →
    step s = exec i { s with direct := none, turn := .engine })

/-- What an agent's move drives onto the input ports (R11, R34), and that it changes nothing else but the list of moves, which
loses it: the levels held between moves are the model's choice (log 1, log 22). -/
def Obligations.MovesDriveTheirPorts : Prop :=
  ∀ s : State,
    s.drive .engine = { s with sched := s.sched.tail, turn := .engine } ∧
    s.drive .tick = { s with sched := s.sched.tail, turn := .tick } ∧
    (∀ w a, s.drive (.offer w a) = { s with sched := s.sched.tail, turn := .host, cmdWord := w, xportAvail := a }) ∧
    (∀ c, s.drive (.writeDone c) = { s with sched := s.sched.tail, turn := .writeDone, xwStatus := c }) ∧
    (∀ c d, s.drive (.readDone c d) = { s with sched := s.sched.tail, turn := .readDone, xrStatus := c, xrData := d })

/-- A word placed for fetching is the one the next step runs; a state code is placed in `st`, and nothing else of the
registers, the history or the parameters changes (how a program comes to run is the model's choice, log 2). -/
def Obligations.PlacedWordIsTheOneRun : Prop :=
  ∀ (s : State) (nbits w : Nat) (i : Instr), decodeTableWord nbits w = some i →
    ∃ t, step (s.withFetchWord nbits w) = exec i t ∧ t.direct = none ∧ t.hist = s.hist ∧ t.cfg = s.cfg ∧
      t.st = (if nbits ≤ 8 then stOfCode (BitVec.ofNat 3 w) else s.st) ∧ SameRegisters { s with st := t.st } t

/-- Words written out from R61, R62, R66, R67, R68 and R69 decode to the rows they stand for. -/
def Obligations.SampleWordsDecode : Prop :=
  decode (.req [0x82, 0x01, 0x10, 0xAC]) = .ok (.getFrame 0xAC) ∧
  decode (.req [0x84, 0x03, 0x10, 0x00, 0x32, 0x9A]) = .ok (.setFrame 0x00 0x32 0x9A) ∧
  decode (.cmd 0x00000) = .ok (.get 0) ∧
  decode (.cmd 0x10096) = .ok (.set 150) ∧
  decode (.resp [0x6E, 0x11, 0x22, 0x33, 0x44, 0x55, 0x66, 0x77, 0x00, 0x4B, 0x88, 0x99]) =
    .ok (.vcpReply [0x11, 0x22, 0x33, 0x44, 0x55, 0x66, 0x77] 0x00 0x4B [0x88, 0x99]) ∧
  decode (.state 3) = .ok .stWriting ∧
  decode (.res 4) = .ok .resWriteFailed

/-- Every well-formed instruction, with every operand at every value, decodes from its own word. -/
def Obligations.DecodeOfEncode : Prop :=
  ∀ (cfg : Config) (i : Instr), i.wf cfg = true → decode (encode i) = .ok i

/-- A word that decodes is the word of what it decodes to: no two words share an instruction. -/
def Obligations.EncodeOfDecode : Prop :=
  ∀ (w : Encoded) (i : Instr), decode w = .ok i → encode i = w

/-- R67: bit 16 of a command word says which command it is and bits 15:0 are its value; every pattern is a legal command. -/
def Obligations.EveryCommandWordIsLegal : Prop :=
  ∀ w : CmdWord, decode (.cmd w) = .ok (if w.getLsbD 16 then .set (w.setWidth 16) else .get (w.setWidth 16))

/-- Which other words are legal: every state code (R69), no kind code 7 (R68), no request frame but with the first bytes of the
two rows and their lengths (R70, R71, R74), no response whose byte 0 is not 0x6E or whose length RESP_LEN cannot be (R66, R6;
that a decoder refuses them is the model's, log 7, log 13). -/
def Obligations.LegalWordsAreTheTables : Prop :=
  (∀ c : Code3, ∃ i, decode (.state c) = .ok i) ∧
  (∀ c : Code3, (∃ i, decode (.res c) = .ok i) ↔ c ≠ 7) ∧
  (∀ bytes : List Byte, (∃ i, decode (.req bytes) = .ok i) ↔
    (bytes.length = 4 ∧ bytes.take 3 = [0x82, 0x01, 0x10]) ∨ (bytes.length = 6 ∧ bytes.take 3 = [0x84, 0x03, 0x10])) ∧
  (∀ bytes : List Byte, (∃ i, decode (.resp bytes) = .ok i) ↔
    12 ≤ bytes.length ∧ bytes.length ≤ 16 ∧ bytes.head? = some 0x6E)

/-- R69: the eight state codes on port `st`; "All eight codes are used". -/
def Obligations.StateCodesAreTheTable : Prop :=
  (∀ s : State, s.stPort = match s.st with
    | .idle => 0 | .building => 1 | .delaying => 2 | .writing => 3 | .reading => 4 | .decoding => 5 | .done => 6
    | .failed => 7) ∧
  (∀ c : Code3, stCode (stOfCode c) = c) ∧ (∀ st : St, stOfCode (stCode st) = st)

/-- R68: the seven kind codes on port `res_kind`; code 7 is no kind's. -/
def Obligations.KindCodesAreTheTable : Prop :=
  (∀ s : State, s.resKindPort = match s.resKind with
    | .none => 0 | .value => 1 | .ok => 2 | .connectionUnavailable => 3 | .writeFailed => 4 | .readFailed => 5
    | .invalidResponse => 6) ∧
  (∀ (c : Code3) (k : ResKind), resOfCode c = some k ↔ resCodeOf k = c) ∧ resOfCode 7 = none

/-! ## Reset and outputs -/

/-- R37: the registers that reset gives a value, and the outputs after reset. -/
def Obligations.ResetGivesTheStatedValues : Prop :=
  State.reset.st = .idle ∧ State.reset.resKind = .none ∧ State.reset.pend = false ∧ State.reset.wrLeft = 0 ∧
  State.reset.cmdReady = true ∧ State.reset.busy = false ∧ State.reset.resValid = false ∧
  State.reset.xwReq = false ∧ State.reset.xrReq = false

/-- R140: from any state, in the middle of a request or not, an asserted `rst` leaves the registers and the outputs of reset
and an empty history; the parameters of the build stay. -/
def Obligations.ResetWinsFromAnyState : Prop :=
  ∀ s : State, s.direct = none → s.nextMove = .rst →
    ∃ t, step s = .next t ∧ t.st = .idle ∧ t.resKind = .none ∧ t.pend = false ∧ t.wrLeft = 0 ∧ t.hist = [] ∧
      t.cmdReady = true ∧ t.busy = false ∧ t.resValid = false ∧ t.xwReq = false ∧ t.xrReq = false ∧
      t.cfg = s.cfg ∧ t.sched = s.sched.tail

/-- R141: "after reset the engine waits in `Idle`": whatever moves are not an offer, a reset or a stop, nothing happens. -/
def Obligations.IdleWaitsForTheHost : Prop :=
  ∀ (n : Nat) (s : State), s.direct = none → s.st = .idle → (∀ m ∈ s.sched, m ≠ .rst ∧ ∀ w a, m ≠ .offer w a) →
    ∃ t, Host.Core.run Sys2Proof.core n s = .next t ∧ SameRegisters s t ∧ t.hist = s.hist

/-- R32: the three status outputs. -/
def Obligations.StatusOutputsFollowSt : Prop :=
  ∀ s : State,
    (s.cmdReady = true ↔ s.st = .idle ∨ s.st = .done ∨ s.st = .failed) ∧
    (s.busy = !s.cmdReady) ∧
    (s.resValid = true ↔ s.st = .done ∨ s.st = .failed)

/-! ## The codec -/

/-- R80: the clamp is the minimum over the whole 16-bit range, and idempotent. -/
def Obligations.ClampIsTheMinimum : Prop :=
  ∀ raw : Raw, (clamp raw).toNat = min raw.toNat 100 ∧ clamp ((clamp raw).setWidth 16) = clamp raw

/-- R81: the fold byte by byte, its value on the empty sequence, its independence of the order of the bytes, that a zero byte
changes nothing, and that folding a sequence with its own checksum appended gives zero. -/
def Obligations.XorFoldLaws : Prop :=
  ∀ (init : Byte) (s : List Byte),
    xorFold init [] = init ∧
    xorFold init s = s.foldl (· ^^^ ·) init ∧
    (∀ t, s.Perm t → xorFold init s = xorFold init t) ∧
    (∀ t, xorFold init (s ++ 0x00 :: t) = xorFold init (s ++ t)) ∧
    xorFold init (s ++ [xorFold init s]) = 0x00

/-- R61, R83: the get request frame. -/
def Obligations.GetFrameBytes : Prop :=
  ∀ cfg : Config, buildGet cfg = [0x82, 0x01, 0x10, cfg.ck0Get ^^^ 0x93] ∧ cfg.ck0Get = 0x6E ^^^ cfg.subGet

/-- R62, R64, R84: the set request frame; the high value byte is 0, the low one is the luminance. -/
def Obligations.SetFrameBytes : Prop :=
  ∀ (cfg : Config) (lum : Byte),
    buildSet cfg lum = [0x84, 0x03, 0x10, 0x00, lum, cfg.ck0Set ^^^ 0x97 ^^^ lum] ∧ cfg.ck0Set = cfg.seedSet ^^^ cfg.subSet

/-- R65: every frame the engine builds carries the fold of the bytes before it, decodes, and is well-formed. -/
def Obligations.BuiltFramesAreWellFormed : Prop :=
  ∀ s : State, ∃ i, decode (.req s.builtFrame) = .ok i ∧ i.wf s.cfg = true ∧
    s.builtFrame.getLast? = some (xorFold (match s.op with | .get => s.cfg.ck0Get | .set => s.cfg.ck0Set) s.builtFrame.dropLast)

/-- R84: "two frames for different `lum` differ in bytes 4 and 5 and nowhere else". -/
def Obligations.SetFramesDifferInTwoBytes : Prop :=
  ∀ (cfg : Config) (a b : Byte) (k : Nat), a ≠ b → k < 6 →
    ((buildSet cfg a).getD k 0 ≠ (buildSet cfg b).getD k 0 ↔ k = 4 ∨ k = 5)

/-- R73(b): BUILD of `SET n` with `n` over 100 leaves what BUILD of `SET 100` leaves, but for `raw`. -/
def Obligations.SetAboveHundredBuildsHundred : Prop :=
  ∀ s : State, s.turn = .engine → s.op = .set → 100 < s.raw.toNat →
    ∃ t, exec .stBuilding { s with raw := 100 } = .next t ∧ exec .stBuilding s = .next { t with raw := s.raw }

/-! ## Commands -/

/-- R91: a ready engine with the transport latches the command, drops the old result and goes to `Building`; a busy one does
nothing at all. -/
def Obligations.AcceptLatchesTheCommand : Prop :=
  ∀ (s : State) (v : Raw),
    (s.cmdReady = true → s.xportAvail = true →
      (∃ t, exec (.get v) s = .next t ∧
        t = { s with op := .get, raw := v, resKind := .none, st := .building, hist := s.hist ++ [.accept .get v true],
                     resValue := t.resValue, resCode := t.resCode, free := t.free }) ∧
      (∃ t, exec (.set v) s = .next t ∧
        t = { s with op := .set, raw := v, resKind := .none, st := .building, hist := s.hist ++ [.accept .set v true],
                     resValue := t.resValue, resCode := t.resCode, free := t.free })) ∧
    (s.cmdReady = false → exec (.get v) s = .next s ∧ exec (.set v) s = .next s)

/-- R92: without the transport the command fails at once, with nothing built and nothing sent. -/
def Obligations.AcceptWithoutTransportFails : Prop :=
  ∀ (s : State) (v : Raw), s.cmdReady = true → s.xportAvail = false →
    (∃ t, exec (.get v) s = .next t ∧
      t = { s with op := .get, raw := v, resKind := .connectionUnavailable, st := .failed,
                   hist := s.hist ++ [.accept .get v false, .result .connectionUnavailable t.resValue t.resCode],
                   resValue := t.resValue, resCode := t.resCode, free := t.free }) ∧
    (∃ t, exec (.set v) s = .next t ∧
      t = { s with op := .set, raw := v, resKind := .connectionUnavailable, st := .failed,
                   hist := s.hist ++ [.accept .set v false, .result .connectionUnavailable t.resValue t.resCode],
                   resValue := t.resValue, resCode := t.resCode, free := t.free })

/-! ## Frame rows -/

/-- GET.frame and SET.frame fill the TX space and `txlen`; every offset of the buffer is said (the row's meaning is the
model's, log 5; that `ck` keeps the checksum, log 17). -/
def Obligations.FrameRowsLoadTheBuffer : Prop :=
  ∀ (s : State) (hi lo c : Byte), Memory.wf s.txbuf = true →
    (∃ t, exec (.getFrame c) s = .next t ∧ t = { s with txbuf := t.txbuf, txlen := 4, ck := c } ∧
      ∀ k, Memory.read t.txbuf k = if k < 6 then [0x82, 0x01, 0x10, c, 0, 0].getD k 0 else Memory.read s.txbuf k) ∧
    (∃ t, exec (.setFrame hi lo c) s = .next t ∧ t = { s with txbuf := t.txbuf, txlen := 6, ck := c } ∧
      ∀ k, Memory.read t.txbuf k = if k < 6 then [0x84, 0x03, 0x10, hi, lo, c].getD k 0 else Memory.read s.txbuf k)

/-- VCPREPLY ends the request with the low value byte, unclamped, whatever the ignored bytes and the high byte are; a frame
longer than RESP_LEN is refused (the row's meaning is the model's, log 6, log 15). -/
def Obligations.ReplyRowReturnsTheLowByte : Prop :=
  ∀ (s : State) (mid : List Byte) (hi lo : Byte) (tail : List Byte), mid.length = 7 →
    (tail.length + 10 ≤ s.cfg.respLen →
      ∃ t, exec (.vcpReply mid hi lo tail) s = .next t ∧
        t = { s with rxbuf := t.rxbuf, resKind := .value, resValue := lo, st := .done,
                     hist := s.hist ++ [.result .value lo t.resCode], resCode := t.resCode, free := t.free } ∧
        ∀ k, Memory.read t.rxbuf k = (0x6E :: (mid ++ hi :: lo :: tail)).getD k 0) ∧
    (s.cfg.respLen < tail.length + 10 → exec (.vcpReply mid hi lo tail) s = .refused .overlongRead)

/-- The DECODE step on a buffer that holds a well-formed response frame does what the model has that frame's VCPREPLY do: what
executing a VCPREPLY means is the model's choice (log 6), the outcome it has in common with DECODE is R85's. -/
def Obligations.DecodeStepRunsTheReplyRow : Prop :=
  ∀ (s : State) (mid : List Byte) (hi lo : Byte) (tail : List Byte),
    s.turn = .engine → Memory.wf s.rxbuf = true → Memory.below s.cfg.respLen s.rxbuf = true →
    (Instr.vcpReply mid hi lo tail).wf s.cfg = true →
    encode (.vcpReply mid hi lo tail) = .resp (Memory.readList s.rxbuf 0 s.cfg.respLen) →
    exec .stDecoding s = exec (.vcpReply mid hi lo tail) s

/-! ## The sequencer -/

/-- R93: BUILD of a GET and of a SET, with the frame bytes at every offset, in one step and without an event (`ck`: log 17). -/
def Obligations.BuildMakesTheFrame : Prop :=
  ∀ s : State, s.turn = .engine → Memory.wf s.txbuf = true →
    (s.op = .get → ∃ t, exec .stBuilding s = .next t ∧
      t = { s with txbuf := t.txbuf, txlen := 4, ck := t.ck, wrLeft := 1, dly := s.cfg.dlyLoad, st := .delaying } ∧
      t.dly.toNat = s.cfg.delayTicks ∧
      ∀ k, Memory.read t.txbuf k =
        if k < 6 then [0x82, 0x01, 0x10, s.cfg.ck0Get ^^^ 0x93, 0, 0].getD k 0 else Memory.read s.txbuf k) ∧
    (s.op = .set → ∃ t, exec .stBuilding s = .next t ∧
      t = { s with lum := t.lum, txbuf := t.txbuf, txlen := 6, ck := t.ck, wrLeft := 2, dly := s.cfg.dlyLoad,
                   st := .delaying } ∧
      t.dly.toNat = s.cfg.delayTicks ∧ t.lum.toNat = min s.raw.toNat 100 ∧
      ∀ k, Memory.read t.txbuf k =
        if k < 6 then [0x84, 0x03, 0x10, 0x00, t.lum, s.cfg.ck0Set ^^^ 0x97 ^^^ t.lum].getD k 0 else Memory.read s.txbuf k)

/-- R94: a tick counts in `Delaying` while `dly > 0` and changes nothing in every other state. -/
def Obligations.TickCountsOnlyInDelaying : Prop :=
  ∀ s : State, s.turn = .tick →
    exec (instrOfSt s.st) s = .next (if s.st = .delaying ∧ s.dly ≠ 0 then { s with dly := s.dly - 1 } else s)

/-- R95: when the delay has elapsed the engine goes on to the write, or to the read when no write is left; before that it
waits. -/
def Obligations.DelayExpiryChoosesTheTransaction : Prop :=
  ∀ s : State, s.turn = .engine →
    (s.dly = 0 → s.wrLeft ≠ 0 → exec .stDelaying s = .next { s with st := .writing, hist := s.hist ++ [.delay] }) ∧
    (s.dly = 0 → s.wrLeft = 0 → exec .stDelaying s = .next { s with st := .reading, hist := s.hist ++ [.delay] }) ∧
    (s.dly ≠ 0 → exec .stDelaying s = .next s)

/-- R96: WRITE issue hands over exactly the first `txlen` bytes and marks the request pending; in a safe state they are the
4 or 6 bytes of the built frame, on each write of the request. -/
def Obligations.WriteIssueHandsOverTheFrame : Prop :=
  ∀ s : State, s.turn = .engine → s.pend = false → s.txlen.toNat ≤ 6 →
    exec .stWriting s =
      .next { s with inflight := some (.write (Memory.readList s.txbuf 0 s.txlen.toNat)), pend := true } ∧
    (Inv s → s.st = .writing → Memory.readList s.txbuf 0 s.txlen.toNat = s.builtFrame ∧
      s.txlen.toNat = (match s.op with | .get => 4 | .set => 6))

/-- Where `st.Writing` stops, in states no run reaches: a frame length of 7 (the TX space has six offsets, R40(a)) and a
write counter of 0 at a successful answer (R86(f)); the stops are the model's (log 14). -/
def Obligations.UnreachableCountersStop : Prop :=
  ∀ s : State,
    (s.turn = .engine → s.pend = false → s.txlen = 7 → exec .stWriting s = .fault .txOffset) ∧
    (s.turn = .writeDone → s.pend = true → s.txlen = 7 → exec .stWriting s = .fault .txOffset) ∧
    (s.turn = .writeDone → s.pend = true → s.txlen.toNat ≤ 6 → s.xwStatus = 0 → s.wrLeft = 0 →
      exec .stWriting s = .fault .writeCountZero)

/-- R97: the three outcomes of a write's answer. -/
def Obligations.WriteAnswerOutcomes : Prop :=
  ∀ s : State, s.turn = .writeDone → s.pend = true → s.txlen.toNat ≤ 6 →
    (s.xwStatus ≠ 0 → ∃ t, exec .stWriting s = .next t ∧
      t = { s with pend := false, inflight := none, resKind := .writeFailed, resCode := s.xwStatus, st := .failed,
                   hist := s.hist ++ [.write (Memory.readList s.txbuf 0 s.txlen.toNat) s.xwStatus,
                                      .result .writeFailed t.resValue s.xwStatus],
                   resValue := t.resValue, free := t.free }) ∧
    (s.xwStatus = 0 → s.wrLeft ≠ 0 → s.wrLeft - 1 ≠ 0 ∨ s.op = .get → exec .stWriting s =
      .next { s with pend := false, inflight := none, wrLeft := s.wrLeft - 1, dly := s.cfg.dlyLoad, st := .delaying,
                     hist := s.hist ++ [.write (Memory.readList s.txbuf 0 s.txlen.toNat) 0] } ∧
      s.cfg.dlyLoad.toNat = s.cfg.delayTicks) ∧
    (s.xwStatus = 0 → s.wrLeft = 1 → s.op = .set → ∃ t, exec .stWriting s = .next t ∧
      t = { s with pend := false, inflight := none, wrLeft := 0, resKind := .ok, st := .done,
                   hist := s.hist ++ [.write (Memory.readList s.txbuf 0 s.txlen.toNat) 0,
                                      .result .ok t.resValue t.resCode],
                   resValue := t.resValue, resCode := t.resCode, free := t.free })

/-- R98: READ issue zero-fills the RX space and asks for `RESP_LEN` bytes. -/
def Obligations.ReadIssueZeroFillsAndAsks : Prop :=
  ∀ s : State, s.turn = .engine → s.pend = false →
    ∃ t, exec .stReading s = .next t ∧
      t = { s with rxbuf := t.rxbuf, inflight := some (.read s.cfg.respLen), pend := true } ∧
      (∀ k, Memory.read t.rxbuf k = 0x00) ∧ 12 ≤ s.cfg.respLen ∧ s.cfg.respLen ≤ 16

/-- R99: the outcomes of a read's answer; the bytes delivered overwrite the first of `rxbuf`, the others keep their value. -/
def Obligations.ReadAnswerOutcomes : Prop :=
  ∀ s : State, s.turn = .readDone → s.pend = true →
    (s.xrData.length ≤ s.cfg.respLen → s.xrStatus ≠ 0 → ∃ t, exec .stReading s = .next t ∧
      t = { s with pend := false, inflight := none, resKind := .readFailed, resCode := s.xrStatus, st := .failed,
                   hist := s.hist ++ [.read s.cfg.respLen s.xrStatus s.xrData, .result .readFailed t.resValue s.xrStatus],
                   resValue := t.resValue, free := t.free }) ∧
    (s.xrData.length ≤ s.cfg.respLen → s.xrStatus = 0 → Memory.wf s.rxbuf = true → ∃ t, exec .stReading s = .next t ∧
      t = { s with pend := false, inflight := none, rxbuf := t.rxbuf, st := .decoding,
                   hist := s.hist ++ [.read s.cfg.respLen 0 s.xrData] } ∧
      ∀ k, Memory.read t.rxbuf k = if k < s.xrData.length then s.xrData.getD k 0 else Memory.read s.rxbuf k)

/-- More than RESP_LEN bytes are "outside the interface" (R46); the model refuses them (log 15). -/
def Obligations.OverlongReadIsRefused : Prop :=
  ∀ s : State, s.turn = .readDone → s.pend = true → s.cfg.respLen < s.xrData.length →
    exec .stReading s = .refused .overlongRead

/-- R85, R100: DECODE returns the byte at offset 9 exactly when the byte at offset 0 is 0x6E, and raises InvalidResponse
otherwise. -/
def Obligations.DecodeStepOutcomes : Prop :=
  ∀ s : State, s.turn = .engine →
    (Memory.read s.rxbuf 0 = 0x6E → ∃ t, exec .stDecoding s = .next t ∧
      t = { s with resKind := .value, resValue := Memory.read s.rxbuf 9, st := .done,
                   hist := s.hist ++ [.result .value (Memory.read s.rxbuf 9) t.resCode],
                   resCode := t.resCode, free := t.free }) ∧
    (Memory.read s.rxbuf 0 ≠ 0x6E → ∃ t, exec .stDecoding s = .next t ∧
      t = { s with resKind := .invalidResponse, st := .failed,
                   hist := s.hist ++ [.result .invalidResponse t.resValue t.resCode],
                   resValue := t.resValue, resCode := t.resCode, free := t.free })

/-- Only offsets 0 and 9 of the response decide a GET (R66, R85: "Only bytes at fixed offsets are meaningful"): two states
that differ in the other bytes of `rxbuf` end the request alike. -/
def Obligations.IgnoredReplyBytesDoNotMatter : Prop :=
  ∀ (s : State) (other : Memory), s.turn = .engine →
    Memory.read other 0 = Memory.read s.rxbuf 0 → Memory.read other 9 = Memory.read s.rxbuf 9 →
    ∃ t, exec .stDecoding s = .next t ∧ exec .stDecoding { s with rxbuf := other } = .next { t with rxbuf := other }

/-- `Idle`, `Done` and `Failed` keep everything until the host offers a command (R107, R129), and then accept it (R91). -/
def Obligations.QuiescentStatesWaitOrAccept : Prop :=
  ∀ s : State,
    (s.turn ≠ .host → exec .stIdle s = .next s ∧ exec .stDone s = .next s ∧ exec .stFailed s = .next s) ∧
    (s.turn = .host → s.cmdReady = true → s.xportAvail = true →
      ∃ t, exec .stIdle s = .next t ∧ exec .stDone s = .next t ∧ exec .stFailed s = .next t ∧
        t = { s with op := if s.cmdWord.getLsbD 16 then .set else .get, raw := s.cmdWord.setWidth 16, resKind := .none,
                     st := .building, hist := t.hist, resValue := t.resValue, resCode := t.resCode, free := t.free } ∧
        t.hist = s.hist ++ [.accept t.op t.raw true])

/-! ## Results and errors -/

/-- `res.None` drops the result (R31); `res.Value` and `res.Ok` end a request well, with the byte at offset 9 of the response
or without a value (R97, R100; that the rows do this is the model's reading, log 4). -/
def Obligations.SuccessRowsEndTheRequest : Prop :=
  ∀ s : State,
    (∃ t, exec .resNone s = .next t ∧
      t = { s with resKind := .none, resValue := t.resValue, resCode := t.resCode, free := t.free }) ∧
    (∃ t, exec .resValue s = .next t ∧
      t = { s with resKind := .value, resValue := Memory.read s.rxbuf 9, st := .done,
                   hist := s.hist ++ [.result .value (Memory.read s.rxbuf 9) t.resCode],
                   resCode := t.resCode, free := t.free }) ∧
    (∃ t, exec .resOk s = .next t ∧
      t = { s with resKind := .ok, st := .done, hist := s.hist ++ [.result .ok t.resValue t.resCode],
                   resValue := t.resValue, resCode := t.resCode, free := t.free })

/-- R127: the error entry, for each of the four kinds: the kind, the transport's status where the kind has one, `Failed`, one
event, and nothing else (that the res. rows do this is the model's reading, log 4). -/
def Obligations.RaiseEntersFailed : Prop :=
  ∀ s : State,
    (∃ t, exec .resConnectionUnavailable s = .next t ∧
      t = { s with resKind := .connectionUnavailable, st := .failed,
                   hist := s.hist ++ [.result .connectionUnavailable t.resValue t.resCode],
                   resValue := t.resValue, resCode := t.resCode, free := t.free }) ∧
    (∃ t, exec .resWriteFailed s = .next t ∧
      t = { s with resKind := .writeFailed, resCode := s.xwStatus, st := .failed,
                   hist := s.hist ++ [.result .writeFailed t.resValue s.xwStatus],
                   resValue := t.resValue, free := t.free }) ∧
    (∃ t, exec .resReadFailed s = .next t ∧
      t = { s with resKind := .readFailed, resCode := s.xrStatus, st := .failed,
                   hist := s.hist ++ [.result .readFailed t.resValue s.xrStatus],
                   resValue := t.resValue, free := t.free }) ∧
    (∃ t, exec .resInvalidResponse s = .next t ∧
      t = { s with resKind := .invalidResponse, st := .failed,
                   hist := s.hist ++ [.result .invalidResponse t.resValue t.resCode],
                   resValue := t.resValue, resCode := t.resCode, free := t.free })

/-! ## The machine -/

/-- The invariants of R38, which the spec marks "derived", hold after reset; where they speak of registers that R37 leaves
unspecified they rest on the values log 9 and log 10 name. -/
def Obligations.InvariantAtReset : Prop := Inv State.reset

/-- Every step, of whichever agent, keeps the invariants of R38, which the spec marks "derived: from rules R91 to R100". -/
def Obligations.EveryStepKeepsTheInvariant : Prop :=
  ∀ s t : State, Inv s → step s = .next t → Inv t

/-- R135(a): the model stops nowhere a run can be: in a safe state every move the agents may make has a next state. -/
def Obligations.SafeStatesNeverStop : Prop :=
  ∀ s : State, Inv s → s.nextMove.withinInterface s.cfg = true → ∃ t, step s = .next t

/-- R135(b), R107: the engine's own step changes nothing exactly where it waits for another agent or for a command. -/
def Obligations.EngineIsStuckExactlyWhereItWaits : Prop :=
  ∀ s : State, Inv s → s.nextMove = .engine →
    (step s = .next (s.drive .engine) ↔ s.waits = true ∨ s.cmdReady = true)

/-- R104, which the spec marks "derived: from rules R91 to R100": "No transition exists that is not a row of this table". A
step other than reset is a row of it or leaves every register as it is. -/
def Obligations.EveryTransitionIsInTheTable : Prop :=
  ∀ s t : State, Inv s → s.nextMove ≠ .rst → step s = .next t → TransitionRow s s.nextMove t ∨ SameRegisters s t

/-- The history is empty after reset, as `Idle` asks. -/
def Obligations.HistoryFitsAtReset : Prop := HistoryFits State.reset

/-- R101, R102, R128, which the spec marks "derived": at every position of every request the history since its acceptance is
exactly the transactions that position calls for, each with its delay, its frame and its status. -/
def Obligations.EveryStepKeepsTheHistory : Prop :=
  ∀ s t : State, Inv s → HistoryFits s → step s = .next t → HistoryFits t

/-- The history only grows, except by reset, and the build's parameters never change. R12 says so of the history within a
request; that it is kept over requests is the model's (log 18), and so is what a directly driven word does (log 7). -/
def Obligations.HistoryOnlyGrows : Prop :=
  ∀ s t : State, step s = .next t →
    t.cfg = s.cfg ∧ (s.direct = none → s.nextMove = .rst ∨ s.hist <+: t.hist) ∧ (s.direct ≠ none → s.hist <+: t.hist)

/-- R53, R148(c): from BUILD to the end of the request nothing changes the command, the luminance or the frame. -/
def Obligations.FrameIsStableDuringARequest : Prop :=
  ∀ s t : State, s.direct = none → s.nextMove ≠ .rst → St.framed s.st = true → step s = .next t →
    t.op = s.op ∧ t.raw = s.raw ∧ t.lum = s.lum ∧ t.txbuf = s.txbuf ∧ t.txlen = s.txlen

/-- R31: the result kind is written by an acceptance, by the step that ends a request, and by reset, and by nothing else. -/
def Obligations.ResultKindIsWrittenAtTheEnds : Prop :=
  ∀ s t : State, s.direct = none → s.nextMove ≠ .rst → step s = .next t → t.resKind ≠ s.resKind →
    (s.cmdReady = true ∧ ∃ w a, s.nextMove = .offer w a) ∨ (s.busy = true ∧ t.resValid = true)

/-- R142, R148(d): an answer that finds nothing pending, or that is not the one awaited, is ignored. -/
def Obligations.StrayAnswersAreIgnored : Prop :=
  ∀ (s : State) (c : Code) (d : List Byte), s.direct = none →
    (s.nextMove = .writeDone c → ¬ (s.st = .writing ∧ s.pend = true) →
      ∃ t, step s = .next t ∧ SameRegisters s t ∧ t.hist = s.hist ∧ t.inflight = s.inflight) ∧
    (s.nextMove = .readDone c d → ¬ (s.st = .reading ∧ s.pend = true) →
      ∃ t, step s = .next t ∧ SameRegisters s t ∧ t.hist = s.hist ∧ t.inflight = s.inflight)

/-- R105, R135(d): while the answer it awaits does not come, and no reset, the engine stays as it is however long it runs
(program P8). -/
def Obligations.UnansweredRequestHangs : Prop :=
  ∀ (n : Nat) (s : State), s.direct = none → s.pend = true → (∀ m ∈ s.sched, m ≠ .rst) →
    (s.st = .writing ∧ (∀ c, .writeDone c ∉ s.sched)) ∨ (s.st = .reading ∧ (∀ c d, .readDone c d ∉ s.sched)) →
    ∃ t, Host.Core.run Sys2Proof.core n s = .next t ∧ SameRegisters s t ∧ t.hist = s.hist ∧ t.inflight = s.inflight

/-- R94, R145: with fewer ticks than the counter holds the engine is still in `Delaying`, with exactly those ticks counted,
whatever else happens but a reset. -/
def Obligations.DelayIsNeverShortened : Prop :=
  ∀ (n : Nat) (s : State), s.direct = none → s.st = .delaying → (∀ m ∈ s.sched.take n, m ≠ .rst) →
    (s.sched.take n).count .tick < s.dly.toNat →
    ∃ t, Host.Core.run Sys2Proof.core n s = .next t ∧ t.st = .delaying ∧
      t.dly.toNat = s.dly.toNat - (s.sched.take n).count .tick ∧ t.hist = s.hist

/-- R101, R106, which the spec marks "derived" (the moves stand for the script as log 24 says): a GET from any quiescent state, under a transport that answers and a timebase that ticks, ends with the
result and the history of the reference procedure. -/
def Obligations.GetRunIsTheReference : Prop :=
  ∀ (s : State) (v : Raw) (avail : Bool) (w1 r : Code) (data : List Byte),
    Inv s → s.cmdReady = true → data.length ≤ s.cfg.respLen →
    s.sched = Line.moves s.cfg (.command .get v avail [.write w1, .read r data]) →
    ∃ t, Host.Core.run Sys2Proof.core s.sched.length s = .next t ∧ t.sched = [] ∧ t.resValid = true ∧
      t.resKind = (refGet s.cfg avail w1 r data).kind ∧
      (∀ b, (refGet s.cfg avail w1 r data).value = some b → t.resValue = b) ∧
      (∀ c, (refGet s.cfg avail w1 r data).code = some c → t.resCode = c) ∧
      t.hist = s.hist ++ .accept .get v avail :: ((refGet s.cfg avail w1 r data).events ++ [t.resultEvent])

/-- R102, R106, which the spec marks "derived" (log 24): the same for a SET, with its two writes of one frame. -/
def Obligations.SetRunIsTheReference : Prop :=
  ∀ (s : State) (raw : Raw) (avail : Bool) (w1 w2 : Code),
    Inv s → s.cmdReady = true →
    s.sched = Line.moves s.cfg (.command .set raw avail [.write w1, .write w2]) →
    ∃ t, Host.Core.run Sys2Proof.core s.sched.length s = .next t ∧ t.sched = [] ∧ t.resValid = true ∧
      t.resKind = (refSet s.cfg avail raw w1 w2).kind ∧
      (∀ c, (refSet s.cfg avail raw w1 w2).code = some c → t.resCode = c) ∧
      t.hist = s.hist ++ .accept .set raw avail :: ((refSet s.cfg avail raw w1 w2).events ++ [t.resultEvent])

/-- R20, R133: the register `dly` has the smallest width that holds `DELAY_TICKS`, and holds that number when it is loaded (the
width's formula is log 16's). -/
def Obligations.DelayRegisterIsTheSmallest : Prop :=
  ∀ cfg : Config, cfg.dlyLoad.toNat = cfg.delayTicks ∧ cfg.delayTicks < 2 ^ cfg.dlyW ∧
    ∀ w : Nat, cfg.delayTicks < 2 ^ w → cfg.dlyW ≤ w

/-- R70(c), R85, R124: a response driven at the response decoder, of any length up to RESP_LEN and with any source byte, is
decoded: `Value` of its byte at offset 9 when its first byte is 6E, `InvalidResponse` otherwise, bytes it does not have reading 0
(that a word may be driven there is the model's, log 7). -/
def Obligations.DrivenResponseIsDecoded : Prop :=
  ∀ (s : State) (bytes : List Byte), s.direct = some (.resp bytes) → bytes.length ≤ s.cfg.respLen →
    ∃ t, step s = .next t ∧ (∀ k, Memory.read t.rxbuf k = bytes.getD k 0) ∧
      (bytes.getD 0 0 = 0x6E →
        t = { s with rxbuf := t.rxbuf, direct := none, turn := .engine, resKind := .value, resValue := bytes.getD 9 0,
                     st := .done, hist := s.hist ++ [.result .value (bytes.getD 9 0) t.resCode],
                     resCode := t.resCode, free := t.free }) ∧
      (bytes.getD 0 0 ≠ 0x6E →
        t = { s with rxbuf := t.rxbuf, direct := none, turn := .engine, resKind := .invalidResponse, st := .failed,
                     hist := s.hist ++ [.result .invalidResponse t.resValue t.resCode],
                     resValue := t.resValue, resCode := t.resCode, free := t.free })

/-- What the other directly driven words that are no row do: a request frame is read by no block and changes nothing (R65,
R70(a)), the kind code 7 faults (R68, U20); both are the model's reading (log 7). -/
def Obligations.WordsThatAreNoRow : Prop :=
  (∀ (s : State) (bytes : List Byte) (e : DecodeError), s.direct = some (.req bytes) → decode (.req bytes) = .error e →
    step s = .next { s with direct := none, turn := .engine }) ∧
  (∀ s : State, s.direct = some (.res 7) → step s = .fault .reservedKind)
end

