-- ==== Sys2Proof/Laws/Codec.lean ====
section
/-! SUPPORT. Small lemmas of the packet codec: the checksums in closed form (R61, R62), the clamp as a number (R80), the
big-endian split (R64), the frames as lists, and the lengths of frames. -/

namespace Sys2Proof.Laws

open Sys2Proof.Machine

@[simp] theorem xorFold_nil (init : Byte) : xorFold init [] = init := rfl

@[simp] theorem xorFold_cons (init b : Byte) (s : List Byte) : xorFold init (b :: s) = xorFold (init ^^^ b) s := rfl

/-- The initial byte comes out of the fold. -/
theorem xorFold_init (init : Byte) (s : List Byte) : xorFold init s = init ^^^ xorFold 0 s := by
  induction s generalizing init with
  | nil => simp
  | cons b s ih => rw [xorFold_cons, xorFold_cons, ih, ih (0 ^^^ b), BitVec.xor_assoc]; simp

/-- Folding two sequences one after the other. -/
theorem xorFold_append (init : Byte) (s t : List Byte) : xorFold init (s ++ t) = xorFold (xorFold init s) t := by
  induction s generalizing init with
  | nil => rfl
  | cons b s ih => exact ih _

theorem getCksum_eq (cfg : Config) : getCksum cfg = cfg.ck0Get ^^^ 0x93 := by
  rw [getCksum, xorFold_init]; rfl

theorem setCksum_eq (cfg : Config) (hi lo : Byte) : setCksum cfg hi lo = cfg.ck0Set ^^^ (0x97 ^^^ hi ^^^ lo) := by
  rw [setCksum, xorFold_init]
  simp [setBody, opcSet, lenSet, vcpLum]

@[simp] theorem clamp_toNat (raw : Raw) : (clamp raw).toNat = min raw.toNat 100 := by
  simp only [clamp, lumMax, BitVec.toNat_ofNat]
  exact Nat.mod_eq_of_lt (by omega)

theorem valHigh_eq_zero (lum : Byte) : valHigh lum = 0 := by
  unfold valHigh; decide +revert

theorem valLow_eq (lum : Byte) : valLow lum = lum := by
  unfold valLow; decide +revert

@[simp] theorem buildGet_length (cfg : Config) : (buildGet cfg).length = 4 := rfl

@[simp] theorem buildSet_length (cfg : Config) (lum : Byte) : (buildSet cfg lum).length = 6 := rfl

@[simp] theorem getBody_length : getBody.length = 3 := rfl

@[simp] theorem setBody_length (hi lo : Byte) : (setBody hi lo).length = 5 := rfl

theorem decodeResponse_display (hi lo : Byte) : decodeResponse displayAddr hi lo = .value lo := by simp [decodeResponse]

theorem decodeResponse_other (src hi lo : Byte) (h : src ≠ displayAddr) :
    decodeResponse src hi lo = .invalidResponse := by simp [decodeResponse, h]

/-- The frame of a command has 4 or 6 bytes (R25). -/
theorem requestFrame_length (cfg : Config) (op : CmdOp) (raw : Raw) :
    (requestFrame cfg op raw).length = match op with | .get => 4 | .set => 6 := by
  cases op <;> rfl

theorem requestFrame_length_le (cfg : Config) (op : CmdOp) (raw : Raw) : (requestFrame cfg op raw).length ≤ 6 := by
  cases op <;> simp [requestFrame]

end Sys2Proof.Laws
end

