-- ==== Sys2Proof/Laws/Memory.lean ====
section
/-! SUPPORT. The laws of the two buffers: reading after writing, the canonical form kept by every operation, and that
canonical memories which read alike are equal. -/

namespace Sys2Proof.Laws

open Sys2Proof.Machine

theorem memory_wf_cons (k : Nat) (v : Byte) (m : Memory) :
    Memory.wf ((k, v) :: m) = true ↔ v ≠ Memory.blank ∧ (∀ c ∈ m, k < c.1) ∧ Memory.wf m = true := by
  simp [Memory.wf, and_assoc]

theorem memory_below_iff (n : Nat) (m : Memory) : Memory.below n m = true ↔ ∀ c ∈ m, c.1 < n := by
  simp [Memory.below]

@[simp] theorem memory_read_nil (a : Nat) : Memory.read [] a = Memory.blank := rfl

/-- An address that no cell lists reads as blank. -/
theorem memory_read_unlisted (m : Memory) (a : Nat) (h : ∀ c ∈ m, c.1 ≠ a) : Memory.read m a = Memory.blank := by
  induction m with
  | nil => rfl
  | cons c m ih =>
    have hc : c.1 ≠ a := h c (by simp)
    simpa [Memory.read, hc] using ih fun d hd => h d (by simp [hd])

/-- Below its first address a canonical memory reads blank. -/
theorem memory_read_lt_head (k : Nat) (m : Memory) (a : Nat) (h : ∀ c ∈ m, k < c.1) (ha : a ≤ k) :
    Memory.read m a = Memory.blank :=
  memory_read_unlisted m a fun c hc => by have := h c hc; omega

/-- A space of `n` bytes lists nothing from `n` up. -/
theorem memory_read_beyond (n : Nat) (m : Memory) (a : Nat) (h : Memory.below n m = true) (ha : n ≤ a) :
    Memory.read m a = Memory.blank :=
  memory_read_unlisted m a fun c hc => by have := (memory_below_iff n m).1 h c hc; omega

/-- The cells of a memory after a write were there before, or are the written one. -/
theorem memory_write_mem (m : Memory) (a : Nat) (b : Byte) (c : Host.Cell) (h : c ∈ Memory.write m a b) :
    c ∈ m ∨ c = (a, b) := by
  induction m with
  | nil =>
    simp only [Memory.write] at h
    split at h <;> simp_all
  | cons d m ih =>
    obtain ⟨k, v⟩ := d
    simp only [Memory.write] at h
    split at h
    · split at h
      · exact .inl h
      · rcases List.mem_cons.1 h with h | h
        · exact .inr h
        · exact .inl h
    · split at h
      · split at h
        · exact .inl (List.mem_cons_of_mem _ h)
        · rcases List.mem_cons.1 h with h | h
          · exact .inr h
          · exact .inl (List.mem_cons_of_mem _ h)
      · rcases List.mem_cons.1 h with h | h
        · exact .inl (by simp [h])
        · rcases ih h with h | h
          · exact .inl (List.mem_cons_of_mem _ h)
          · exact .inr h

/-- A write keeps the canonical form. -/
theorem memory_write_wf (m : Memory) (a : Nat) (b : Byte) (h : Memory.wf m = true) :
    Memory.wf (Memory.write m a b) = true := by
  induction m with
  | nil =>
    simp only [Memory.write]
    split
    · rfl
    · next hb => simp [hb, Memory.wf]
  | cons d m ih =>
    obtain ⟨k, v⟩ := d
    obtain ⟨hv, hk, hm⟩ := (memory_wf_cons k v m).1 h
    simp only [Memory.write]
    split
    · next hak =>
      split
      · exact h
      · next hb =>
        refine (memory_wf_cons _ _ _).2 ⟨hb, fun c hc => ?_, h⟩
        rcases List.mem_cons.1 hc with rfl | hc
        · exact hak
        · have := hk c hc; omega
    · next hak =>
      split
      · next heq =>
        subst heq
        split
        · exact hm
        · next hb => exact (memory_wf_cons _ _ _).2 ⟨hb, hk, hm⟩
      · next hne =>
        refine (memory_wf_cons _ _ _).2 ⟨hv, fun c hc => ?_, ih hm⟩
        rcases memory_write_mem m a b c hc with hc | rfl
        · exact hk c hc
        · simp; omega

/-- A byte read after a byte was written. -/
theorem memory_read_write (m : Memory) (a : Nat) (b : Byte) (c : Nat) (h : Memory.wf m = true) :
    Memory.read (Memory.write m a b) c = if c = a then b else Memory.read m c := by
  induction m with
  | nil =>
    simp only [Memory.write]
    split
    · next hb => subst hb; simp
    · by_cases hc : c = a
      · simp [Memory.read, hc]
      · simp [Memory.read, hc, Ne.symm hc]
  | cons d m ih =>
    obtain ⟨k, v⟩ := d
    obtain ⟨hv, hk, hm⟩ := (memory_wf_cons k v m).1 h
    have hlow : ∀ x, x ≤ k → Memory.read m x = Memory.blank := fun x hx => memory_read_lt_head k m x hk hx
    simp only [Memory.write]
    split
    · next hak =>
      by_cases hc : c = a
      · subst hc
        split
        · next hb => simp [Memory.read, show k ≠ c by omega, hlow c (by omega), hb]
        · simp [Memory.read]
      · rw [if_neg hc]
        split
        · rfl
        · simp [Memory.read, Ne.symm hc]
    · next hak =>
      split
      · next heq =>
        subst heq
        by_cases hc : c = a
        · subst hc
          split
          · next hb => simp [hlow c (le_refl c), hb]
          · simp [Memory.read]
        · rw [if_neg hc]
          split <;> simp [Memory.read, Ne.symm hc]
      · next hne =>
        simp only [Memory.read, ih hm]
        by_cases hkc : k = c
        · subst hkc; simp [show k ≠ a by omega]
        · simp [hkc]

/-- A write inside a space stays inside it. -/
theorem memory_write_below (n : Nat) (m : Memory) (a : Nat) (b : Byte) (h : Memory.below n m = true) (ha : a < n) :
    Memory.below n (Memory.write m a b) = true := by
  refine (memory_below_iff n _).2 fun c hc => ?_
  rcases memory_write_mem m a b c hc with hc | rfl
  · exact (memory_below_iff n m).1 h c hc
  · exact ha

/-- Writing several bytes keeps the canonical form. -/
theorem memory_writeList_wf (bs : List Byte) (m : Memory) (a : Nat) (h : Memory.wf m = true) :
    Memory.wf (Memory.writeList m a bs) = true := by
  induction bs generalizing m a with
  | nil => exact h
  | cons b bs ih => exact ih _ _ (memory_write_wf m a b h)

/-- Writing several bytes inside a space stays inside it. -/
theorem memory_writeList_below (n : Nat) (bs : List Byte) (m : Memory) (a : Nat) (h : Memory.below n m = true)
    (ha : a + bs.length ≤ n) : Memory.below n (Memory.writeList m a bs) = true := by
  induction bs generalizing m a with
  | nil => exact h
  | cons b bs ih =>
    simp only [List.length_cons] at ha
    exact ih _ _ (memory_write_below n m a b h (by omega)) (by omega)

/-- A byte read after several were written: one of them, or the byte that was there. -/
theorem memory_read_writeList (bs : List Byte) (m : Memory) (a c : Nat) (h : Memory.wf m = true) :
    Memory.read (Memory.writeList m a bs) c =
      if a ≤ c ∧ c < a + bs.length then bs.getD (c - a) 0 else Memory.read m c := by
  induction bs generalizing m a with
  | nil => simp [Memory.writeList]
  | cons b bs ih =>
    rw [Memory.writeList, ih _ _ (memory_write_wf m a b h), memory_read_write m a b c h]
    by_cases hca : c = a
    · subst hca; simp
    · by_cases hin : a + 1 ≤ c ∧ c < a + 1 + bs.length
      · have hsub : c - a = (c - (a + 1)) + 1 := by omega
        rw [if_pos hin, if_pos (by simp only [List.length_cons]; omega), hsub, List.getD_cons_succ]
      · rw [if_neg hin, if_neg hca, if_neg (by simp only [List.length_cons]; omega)]

/-- The byte `k` of a buffer that was zero-filled and then written from offset 0 (R46). -/
theorem memory_read_filled (bs : List Byte) (k : Nat) :
    Memory.read (Memory.writeList [] 0 bs) k = bs.getD k 0 := by
  rw [memory_read_writeList bs [] 0 k rfl]
  by_cases h : k < bs.length
  · simp [h]
  · simp [h, Memory.blank, List.getD_eq_getElem?_getD]

@[simp] theorem memory_readList_length (m : Memory) (a n : Nat) : (Memory.readList m a n).length = n := by
  induction n generalizing a with
  | zero => rfl
  | succ n ih => simp [Memory.readList, ih]

/-- Canonical memories that read alike are equal data. -/
theorem memory_ext (m n : Memory) (hm : Memory.wf m = true) (hn : Memory.wf n = true)
    (h : ∀ a, Memory.read m a = Memory.read n a) : m = n := by
  induction m generalizing n with
  | nil =>
    cases n with
    | nil => rfl
    | cons d n =>
      obtain ⟨k, v⟩ := d
      have := h k
      simp [Memory.read] at this
      exact absurd this.symm ((memory_wf_cons k v n).1 hn).1
  | cons c m ih =>
    obtain ⟨j, u⟩ := c
    obtain ⟨hu, hj, hm'⟩ := (memory_wf_cons j u m).1 hm
    cases n with
    | nil =>
      have := h j
      simp [Memory.read] at this
      exact absurd this hu
    | cons d n =>
      obtain ⟨k, v⟩ := d
      obtain ⟨hv, hk, hn'⟩ := (memory_wf_cons k v n).1 hn
      have hjk : j = k := by
        rcases Nat.lt_trichotomy j k with hlt | heq | hlt
        · have := h j
          simp [Memory.read, show k ≠ j by omega, memory_read_lt_head k n j hk (by omega)] at this
          exact absurd this hu
        · exact heq
        · have := h k
          simp [Memory.read, show j ≠ k by omega, memory_read_lt_head j m k hj (by omega)] at this
          exact absurd this.symm hv
      subst hjk
      have huv : u = v := by simpa [Memory.read] using h j
      subst huv
      refine congrArg _ (ih n hm' hn' fun a => ?_)
      by_cases haj : j = a
      · subst haj
        rw [memory_read_lt_head j m j hj (le_refl j), memory_read_lt_head j n j hk (le_refl j)]
      · simpa [Memory.read, haj] using h a

end Sys2Proof.Laws
end

