-- ==== Sys2Proof/Laws/State.lean ====
section
/-! SUPPORT. One lemma per field per named update of the state, each true by rfl, so that no later proof unfolds an update. -/

namespace Sys2Proof.Laws

open Sys2Proof.Machine

variable (s : State)

/-! `emit` (R10) changes the history only. -/

@[simp] theorem emit_st (e : Event) : (s.emit e).st = s.st := rfl
@[simp] theorem emit_op (e : Event) : (s.emit e).op = s.op := rfl
@[simp] theorem emit_raw (e : Event) : (s.emit e).raw = s.raw := rfl
@[simp] theorem emit_lum (e : Event) : (s.emit e).lum = s.lum := rfl
@[simp] theorem emit_txbuf (e : Event) : (s.emit e).txbuf = s.txbuf := rfl
@[simp] theorem emit_txlen (e : Event) : (s.emit e).txlen = s.txlen := rfl
@[simp] theorem emit_wrLeft (e : Event) : (s.emit e).wrLeft = s.wrLeft := rfl
@[simp] theorem emit_dly (e : Event) : (s.emit e).dly = s.dly := rfl
@[simp] theorem emit_pend (e : Event) : (s.emit e).pend = s.pend := rfl
@[simp] theorem emit_rxbuf (e : Event) : (s.emit e).rxbuf = s.rxbuf := rfl
@[simp] theorem emit_ck (e : Event) : (s.emit e).ck = s.ck := rfl
@[simp] theorem emit_resKind (e : Event) : (s.emit e).resKind = s.resKind := rfl
@[simp] theorem emit_resValue (e : Event) : (s.emit e).resValue = s.resValue := rfl
@[simp] theorem emit_resCode (e : Event) : (s.emit e).resCode = s.resCode := rfl
@[simp] theorem emit_turn (e : Event) : (s.emit e).turn = s.turn := rfl
@[simp] theorem emit_cmdWord (e : Event) : (s.emit e).cmdWord = s.cmdWord := rfl
@[simp] theorem emit_xportAvail (e : Event) : (s.emit e).xportAvail = s.xportAvail := rfl
@[simp] theorem emit_xwStatus (e : Event) : (s.emit e).xwStatus = s.xwStatus := rfl
@[simp] theorem emit_xrStatus (e : Event) : (s.emit e).xrStatus = s.xrStatus := rfl
@[simp] theorem emit_xrData (e : Event) : (s.emit e).xrData = s.xrData := rfl
@[simp] theorem emit_inflight (e : Event) : (s.emit e).inflight = s.inflight := rfl
@[simp] theorem emit_hist (e : Event) : (s.emit e).hist = s.hist ++ [e] := rfl
@[simp] theorem emit_sched (e : Event) : (s.emit e).sched = s.sched := rfl
@[simp] theorem emit_direct (e : Event) : (s.emit e).direct = s.direct := rfl
@[simp] theorem emit_free (e : Event) : (s.emit e).free = s.free := rfl
@[simp] theorem emit_cfg (e : Event) : (s.emit e).cfg = s.cfg := rfl

/-! `unspecify` (R31) draws a fresh value for `res_value` and `res_code`. -/

@[simp] theorem unspecify_st : (s.unspecify).st = s.st := rfl
@[simp] theorem unspecify_op : (s.unspecify).op = s.op := rfl
@[simp] theorem unspecify_raw : (s.unspecify).raw = s.raw := rfl
@[simp] theorem unspecify_lum : (s.unspecify).lum = s.lum := rfl
@[simp] theorem unspecify_txbuf : (s.unspecify).txbuf = s.txbuf := rfl
@[simp] theorem unspecify_txlen : (s.unspecify).txlen = s.txlen := rfl
@[simp] theorem unspecify_wrLeft : (s.unspecify).wrLeft = s.wrLeft := rfl
@[simp] theorem unspecify_dly : (s.unspecify).dly = s.dly := rfl
@[simp] theorem unspecify_pend : (s.unspecify).pend = s.pend := rfl
@[simp] theorem unspecify_rxbuf : (s.unspecify).rxbuf = s.rxbuf := rfl
@[simp] theorem unspecify_ck : (s.unspecify).ck = s.ck := rfl
@[simp] theorem unspecify_resKind : (s.unspecify).resKind = s.resKind := rfl
@[simp] theorem unspecify_resValue : (s.unspecify).resValue = Config.freeByte s.free := rfl
@[simp] theorem unspecify_resCode : (s.unspecify).resCode = Config.freeCode s.free := rfl
@[simp] theorem unspecify_turn : (s.unspecify).turn = s.turn := rfl
@[simp] theorem unspecify_cmdWord : (s.unspecify).cmdWord = s.cmdWord := rfl
@[simp] theorem unspecify_xportAvail : (s.unspecify).xportAvail = s.xportAvail := rfl
@[simp] theorem unspecify_xwStatus : (s.unspecify).xwStatus = s.xwStatus := rfl
@[simp] theorem unspecify_xrStatus : (s.unspecify).xrStatus = s.xrStatus := rfl
@[simp] theorem unspecify_xrData : (s.unspecify).xrData = s.xrData := rfl
@[simp] theorem unspecify_inflight : (s.unspecify).inflight = s.inflight := rfl
@[simp] theorem unspecify_hist : (s.unspecify).hist = s.hist := rfl
@[simp] theorem unspecify_sched : (s.unspecify).sched = s.sched := rfl
@[simp] theorem unspecify_direct : (s.unspecify).direct = s.direct := rfl
@[simp] theorem unspecify_free : (s.unspecify).free = s.free + 1 := rfl
@[simp] theorem unspecify_cfg : (s.unspecify).cfg = s.cfg := rfl

/-! `endRequest` (R107) writes the result registers, `st` and one event. -/

@[simp] theorem endRequest_st (k : ResKind) (v : Option Byte) (c : Option Code) (f : St) : (s.endRequest k v c f).st = f := rfl
@[simp] theorem endRequest_op (k : ResKind) (v : Option Byte) (c : Option Code) (f : St) : (s.endRequest k v c f).op = s.op := rfl
@[simp] theorem endRequest_raw (k : ResKind) (v : Option Byte) (c : Option Code) (f : St) : (s.endRequest k v c f).raw = s.raw := rfl
@[simp] theorem endRequest_lum (k : ResKind) (v : Option Byte) (c : Option Code) (f : St) : (s.endRequest k v c f).lum = s.lum := rfl
@[simp] theorem endRequest_txbuf (k : ResKind) (v : Option Byte) (c : Option Code) (f : St) : (s.endRequest k v c f).txbuf = s.txbuf := rfl
@[simp] theorem endRequest_txlen (k : ResKind) (v : Option Byte) (c : Option Code) (f : St) : (s.endRequest k v c f).txlen = s.txlen := rfl
@[simp] theorem endRequest_wrLeft (k : ResKind) (v : Option Byte) (c : Option Code) (f : St) : (s.endRequest k v c f).wrLeft = s.wrLeft := rfl
@[simp] theorem endRequest_dly (k : ResKind) (v : Option Byte) (c : Option Code) (f : St) : (s.endRequest k v c f).dly = s.dly := rfl
@[simp] theorem endRequest_pend (k : ResKind) (v : Option Byte) (c : Option Code) (f : St) : (s.endRequest k v c f).pend = s.pend := rfl
@[simp] theorem endRequest_rxbuf (k : ResKind) (v : Option Byte) (c : Option Code) (f : St) : (s.endRequest k v c f).rxbuf = s.rxbuf := rfl
@[simp] theorem endRequest_ck (k : ResKind) (v : Option Byte) (c : Option Code) (f : St) : (s.endRequest k v c f).ck = s.ck := rfl
@[simp] theorem endRequest_resKind (k : ResKind) (v : Option Byte) (c : Option Code) (f : St) : (s.endRequest k v c f).resKind = k := rfl
@[simp] theorem endRequest_resValue (k : ResKind) (v : Option Byte) (c : Option Code) (f : St) : (s.endRequest k v c f).resValue = v.getD (Config.freeByte s.free) := rfl
@[simp] theorem endRequest_resCode (k : ResKind) (v : Option Byte) (c : Option Code) (f : St) : (s.endRequest k v c f).resCode = c.getD (Config.freeCode s.free) := rfl
@[simp] theorem endRequest_turn (k : ResKind) (v : Option Byte) (c : Option Code) (f : St) : (s.endRequest k v c f).turn = s.turn := rfl
@[simp] theorem endRequest_cmdWord (k : ResKind) (v : Option Byte) (c : Option Code) (f : St) : (s.endRequest k v c f).cmdWord = s.cmdWord := rfl
@[simp] theorem endRequest_xportAvail (k : ResKind) (v : Option Byte) (c : Option Code) (f : St) : (s.endRequest k v c f).xportAvail = s.xportAvail := rfl
@[simp] theorem endRequest_xwStatus (k : ResKind) (v : Option Byte) (c : Option Code) (f : St) : (s.endRequest k v c f).xwStatus = s.xwStatus := rfl
@[simp] theorem endRequest_xrStatus (k : ResKind) (v : Option Byte) (c : Option Code) (f : St) : (s.endRequest k v c f).xrStatus = s.xrStatus := rfl
@[simp] theorem endRequest_xrData (k : ResKind) (v : Option Byte) (c : Option Code) (f : St) : (s.endRequest k v c f).xrData = s.xrData := rfl
@[simp] theorem endRequest_inflight (k : ResKind) (v : Option Byte) (c : Option Code) (f : St) : (s.endRequest k v c f).inflight = s.inflight := rfl
@[simp] theorem endRequest_hist (k : ResKind) (v : Option Byte) (c : Option Code) (f : St) : (s.endRequest k v c f).hist = s.hist ++ [.result k (v.getD (Config.freeByte s.free)) (c.getD (Config.freeCode s.free))] := rfl
@[simp] theorem endRequest_sched (k : ResKind) (v : Option Byte) (c : Option Code) (f : St) : (s.endRequest k v c f).sched = s.sched := rfl
@[simp] theorem endRequest_direct (k : ResKind) (v : Option Byte) (c : Option Code) (f : St) : (s.endRequest k v c f).direct = s.direct := rfl
@[simp] theorem endRequest_free (k : ResKind) (v : Option Byte) (c : Option Code) (f : St) : (s.endRequest k v c f).free = s.free + 1 := rfl
@[simp] theorem endRequest_cfg (k : ResKind) (v : Option Byte) (c : Option Code) (f : St) : (s.endRequest k v c f).cfg = s.cfg := rfl

/-! `loadFrame` (R83, R84) writes the frame buffer, its length and the accumulator. -/

@[simp] theorem loadFrame_st (bs : List Byte) : (s.loadFrame bs).st = s.st := rfl
@[simp] theorem loadFrame_op (bs : List Byte) : (s.loadFrame bs).op = s.op := rfl
@[simp] theorem loadFrame_raw (bs : List Byte) : (s.loadFrame bs).raw = s.raw := rfl
@[simp] theorem loadFrame_lum (bs : List Byte) : (s.loadFrame bs).lum = s.lum := rfl
@[simp] theorem loadFrame_txbuf (bs : List Byte) : (s.loadFrame bs).txbuf = Memory.writeList s.txbuf 0 (bs ++ List.replicate (txSize - bs.length) 0) := rfl
@[simp] theorem loadFrame_txlen (bs : List Byte) : (s.loadFrame bs).txlen = BitVec.ofNat 3 bs.length := rfl
@[simp] theorem loadFrame_wrLeft (bs : List Byte) : (s.loadFrame bs).wrLeft = s.wrLeft := rfl
@[simp] theorem loadFrame_dly (bs : List Byte) : (s.loadFrame bs).dly = s.dly := rfl
@[simp] theorem loadFrame_pend (bs : List Byte) : (s.loadFrame bs).pend = s.pend := rfl
@[simp] theorem loadFrame_rxbuf (bs : List Byte) : (s.loadFrame bs).rxbuf = s.rxbuf := rfl
@[simp] theorem loadFrame_ck (bs : List Byte) : (s.loadFrame bs).ck = bs.getLastD s.ck := rfl
@[simp] theorem loadFrame_resKind (bs : List Byte) : (s.loadFrame bs).resKind = s.resKind := rfl
@[simp] theorem loadFrame_resValue (bs : List Byte) : (s.loadFrame bs).resValue = s.resValue := rfl
@[simp] theorem loadFrame_resCode (bs : List Byte) : (s.loadFrame bs).resCode = s.resCode := rfl
@[simp] theorem loadFrame_turn (bs : List Byte) : (s.loadFrame bs).turn = s.turn := rfl
@[simp] theorem loadFrame_cmdWord (bs : List Byte) : (s.loadFrame bs).cmdWord = s.cmdWord := rfl
@[simp] theorem loadFrame_xportAvail (bs : List Byte) : (s.loadFrame bs).xportAvail = s.xportAvail := rfl
@[simp] theorem loadFrame_xwStatus (bs : List Byte) : (s.loadFrame bs).xwStatus = s.xwStatus := rfl
@[simp] theorem loadFrame_xrStatus (bs : List Byte) : (s.loadFrame bs).xrStatus = s.xrStatus := rfl
@[simp] theorem loadFrame_xrData (bs : List Byte) : (s.loadFrame bs).xrData = s.xrData := rfl
@[simp] theorem loadFrame_inflight (bs : List Byte) : (s.loadFrame bs).inflight = s.inflight := rfl
@[simp] theorem loadFrame_hist (bs : List Byte) : (s.loadFrame bs).hist = s.hist := rfl
@[simp] theorem loadFrame_sched (bs : List Byte) : (s.loadFrame bs).sched = s.sched := rfl
@[simp] theorem loadFrame_direct (bs : List Byte) : (s.loadFrame bs).direct = s.direct := rfl
@[simp] theorem loadFrame_free (bs : List Byte) : (s.loadFrame bs).free = s.free := rfl
@[simp] theorem loadFrame_cfg (bs : List Byte) : (s.loadFrame bs).cfg = s.cfg := rfl

/-! `enterDelay` (R27) loads the counter and enters `Delaying`. -/

@[simp] theorem enterDelay_st : (s.enterDelay).st = .delaying := rfl
@[simp] theorem enterDelay_op : (s.enterDelay).op = s.op := rfl
@[simp] theorem enterDelay_raw : (s.enterDelay).raw = s.raw := rfl
@[simp] theorem enterDelay_lum : (s.enterDelay).lum = s.lum := rfl
@[simp] theorem enterDelay_txbuf : (s.enterDelay).txbuf = s.txbuf := rfl
@[simp] theorem enterDelay_txlen : (s.enterDelay).txlen = s.txlen := rfl
@[simp] theorem enterDelay_wrLeft : (s.enterDelay).wrLeft = s.wrLeft := rfl
@[simp] theorem enterDelay_dly : (s.enterDelay).dly = s.cfg.dlyLoad := rfl
@[simp] theorem enterDelay_pend : (s.enterDelay).pend = s.pend := rfl
@[simp] theorem enterDelay_rxbuf : (s.enterDelay).rxbuf = s.rxbuf := rfl
@[simp] theorem enterDelay_ck : (s.enterDelay).ck = s.ck := rfl
@[simp] theorem enterDelay_resKind : (s.enterDelay).resKind = s.resKind := rfl
@[simp] theorem enterDelay_resValue : (s.enterDelay).resValue = s.resValue := rfl
@[simp] theorem enterDelay_resCode : (s.enterDelay).resCode = s.resCode := rfl
@[simp] theorem enterDelay_turn : (s.enterDelay).turn = s.turn := rfl
@[simp] theorem enterDelay_cmdWord : (s.enterDelay).cmdWord = s.cmdWord := rfl
@[simp] theorem enterDelay_xportAvail : (s.enterDelay).xportAvail = s.xportAvail := rfl
@[simp] theorem enterDelay_xwStatus : (s.enterDelay).xwStatus = s.xwStatus := rfl
@[simp] theorem enterDelay_xrStatus : (s.enterDelay).xrStatus = s.xrStatus := rfl
@[simp] theorem enterDelay_xrData : (s.enterDelay).xrData = s.xrData := rfl
@[simp] theorem enterDelay_inflight : (s.enterDelay).inflight = s.inflight := rfl
@[simp] theorem enterDelay_hist : (s.enterDelay).hist = s.hist := rfl
@[simp] theorem enterDelay_sched : (s.enterDelay).sched = s.sched := rfl
@[simp] theorem enterDelay_direct : (s.enterDelay).direct = s.direct := rfl
@[simp] theorem enterDelay_free : (s.enterDelay).free = s.free := rfl
@[simp] theorem enterDelay_cfg : (s.enterDelay).cfg = s.cfg := rfl

/-! `issue` (R45, R46) hands a transaction to the transport. -/

@[simp] theorem issue_st (t : Transaction) : (s.issue t).st = s.st := rfl
@[simp] theorem issue_op (t : Transaction) : (s.issue t).op = s.op := rfl
@[simp] theorem issue_raw (t : Transaction) : (s.issue t).raw = s.raw := rfl
@[simp] theorem issue_lum (t : Transaction) : (s.issue t).lum = s.lum := rfl
@[simp] theorem issue_txbuf (t : Transaction) : (s.issue t).txbuf = s.txbuf := rfl
@[simp] theorem issue_txlen (t : Transaction) : (s.issue t).txlen = s.txlen := rfl
@[simp] theorem issue_wrLeft (t : Transaction) : (s.issue t).wrLeft = s.wrLeft := rfl
@[simp] theorem issue_dly (t : Transaction) : (s.issue t).dly = s.dly := rfl
@[simp] theorem issue_pend (t : Transaction) : (s.issue t).pend = true := rfl
@[simp] theorem issue_rxbuf (t : Transaction) : (s.issue t).rxbuf = s.rxbuf := rfl
@[simp] theorem issue_ck (t : Transaction) : (s.issue t).ck = s.ck := rfl
@[simp] theorem issue_resKind (t : Transaction) : (s.issue t).resKind = s.resKind := rfl
@[simp] theorem issue_resValue (t : Transaction) : (s.issue t).resValue = s.resValue := rfl
@[simp] theorem issue_resCode (t : Transaction) : (s.issue t).resCode = s.resCode := rfl
@[simp] theorem issue_turn (t : Transaction) : (s.issue t).turn = s.turn := rfl
@[simp] theorem issue_cmdWord (t : Transaction) : (s.issue t).cmdWord = s.cmdWord := rfl
@[simp] theorem issue_xportAvail (t : Transaction) : (s.issue t).xportAvail = s.xportAvail := rfl
@[simp] theorem issue_xwStatus (t : Transaction) : (s.issue t).xwStatus = s.xwStatus := rfl
@[simp] theorem issue_xrStatus (t : Transaction) : (s.issue t).xrStatus = s.xrStatus := rfl
@[simp] theorem issue_xrData (t : Transaction) : (s.issue t).xrData = s.xrData := rfl
@[simp] theorem issue_inflight (t : Transaction) : (s.issue t).inflight = some t := rfl
@[simp] theorem issue_hist (t : Transaction) : (s.issue t).hist = s.hist := rfl
@[simp] theorem issue_sched (t : Transaction) : (s.issue t).sched = s.sched := rfl
@[simp] theorem issue_direct (t : Transaction) : (s.issue t).direct = s.direct := rfl
@[simp] theorem issue_free (t : Transaction) : (s.issue t).free = s.free := rfl
@[simp] theorem issue_cfg (t : Transaction) : (s.issue t).cfg = s.cfg := rfl

/-! `answered` (R97, R99) takes the transport's answer. -/

@[simp] theorem answered_st : (s.answered).st = s.st := rfl
@[simp] theorem answered_op : (s.answered).op = s.op := rfl
@[simp] theorem answered_raw : (s.answered).raw = s.raw := rfl
@[simp] theorem answered_lum : (s.answered).lum = s.lum := rfl
@[simp] theorem answered_txbuf : (s.answered).txbuf = s.txbuf := rfl
@[simp] theorem answered_txlen : (s.answered).txlen = s.txlen := rfl
@[simp] theorem answered_wrLeft : (s.answered).wrLeft = s.wrLeft := rfl
@[simp] theorem answered_dly : (s.answered).dly = s.dly := rfl
@[simp] theorem answered_pend : (s.answered).pend = false := rfl
@[simp] theorem answered_rxbuf : (s.answered).rxbuf = s.rxbuf := rfl
@[simp] theorem answered_ck : (s.answered).ck = s.ck := rfl
@[simp] theorem answered_resKind : (s.answered).resKind = s.resKind := rfl
@[simp] theorem answered_resValue : (s.answered).resValue = s.resValue := rfl
@[simp] theorem answered_resCode : (s.answered).resCode = s.resCode := rfl
@[simp] theorem answered_turn : (s.answered).turn = s.turn := rfl
@[simp] theorem answered_cmdWord : (s.answered).cmdWord = s.cmdWord := rfl
@[simp] theorem answered_xportAvail : (s.answered).xportAvail = s.xportAvail := rfl
@[simp] theorem answered_xwStatus : (s.answered).xwStatus = s.xwStatus := rfl
@[simp] theorem answered_xrStatus : (s.answered).xrStatus = s.xrStatus := rfl
@[simp] theorem answered_xrData : (s.answered).xrData = s.xrData := rfl
@[simp] theorem answered_inflight : (s.answered).inflight = none := rfl
@[simp] theorem answered_hist : (s.answered).hist = s.hist := rfl
@[simp] theorem answered_sched : (s.answered).sched = s.sched := rfl
@[simp] theorem answered_direct : (s.answered).direct = s.direct := rfl
@[simp] theorem answered_free : (s.answered).free = s.free := rfl
@[simp] theorem answered_cfg : (s.answered).cfg = s.cfg := rfl

/-! `setRx` writes the response buffer. -/

@[simp] theorem setRx_st (m : Memory) : (s.setRx m).st = s.st := rfl
@[simp] theorem setRx_op (m : Memory) : (s.setRx m).op = s.op := rfl
@[simp] theorem setRx_raw (m : Memory) : (s.setRx m).raw = s.raw := rfl
@[simp] theorem setRx_lum (m : Memory) : (s.setRx m).lum = s.lum := rfl
@[simp] theorem setRx_txbuf (m : Memory) : (s.setRx m).txbuf = s.txbuf := rfl
@[simp] theorem setRx_txlen (m : Memory) : (s.setRx m).txlen = s.txlen := rfl
@[simp] theorem setRx_wrLeft (m : Memory) : (s.setRx m).wrLeft = s.wrLeft := rfl
@[simp] theorem setRx_dly (m : Memory) : (s.setRx m).dly = s.dly := rfl
@[simp] theorem setRx_pend (m : Memory) : (s.setRx m).pend = s.pend := rfl
@[simp] theorem setRx_rxbuf (m : Memory) : (s.setRx m).rxbuf = m := rfl
@[simp] theorem setRx_ck (m : Memory) : (s.setRx m).ck = s.ck := rfl
@[simp] theorem setRx_resKind (m : Memory) : (s.setRx m).resKind = s.resKind := rfl
@[simp] theorem setRx_resValue (m : Memory) : (s.setRx m).resValue = s.resValue := rfl
@[simp] theorem setRx_resCode (m : Memory) : (s.setRx m).resCode = s.resCode := rfl
@[simp] theorem setRx_turn (m : Memory) : (s.setRx m).turn = s.turn := rfl
@[simp] theorem setRx_cmdWord (m : Memory) : (s.setRx m).cmdWord = s.cmdWord := rfl
@[simp] theorem setRx_xportAvail (m : Memory) : (s.setRx m).xportAvail = s.xportAvail := rfl
@[simp] theorem setRx_xwStatus (m : Memory) : (s.setRx m).xwStatus = s.xwStatus := rfl
@[simp] theorem setRx_xrStatus (m : Memory) : (s.setRx m).xrStatus = s.xrStatus := rfl
@[simp] theorem setRx_xrData (m : Memory) : (s.setRx m).xrData = s.xrData := rfl
@[simp] theorem setRx_inflight (m : Memory) : (s.setRx m).inflight = s.inflight := rfl
@[simp] theorem setRx_hist (m : Memory) : (s.setRx m).hist = s.hist := rfl
@[simp] theorem setRx_sched (m : Memory) : (s.setRx m).sched = s.sched := rfl
@[simp] theorem setRx_direct (m : Memory) : (s.setRx m).direct = s.direct := rfl
@[simp] theorem setRx_free (m : Memory) : (s.setRx m).free = s.free := rfl
@[simp] theorem setRx_cfg (m : Memory) : (s.setRx m).cfg = s.cfg := rfl

/-! `raise` and `complete` are the two ends of a request. -/

@[simp] theorem raise_eq (k : ResKind) (c : Option Code) : s.raise k c = s.endRequest k none c .failed := rfl
@[simp] theorem complete_eq (k : ResKind) (v : Option Byte) : s.complete k v = s.endRequest k v none .done := rfl

end Sys2Proof.Laws
end

