-- ==== Sys2Proof/Laws/Ops.lean ====
section
/-! SUPPORT. For each shared operation, once, everything it can do: what a proof about a meaning cites instead of unfolding
the operation. -/

namespace Sys2Proof.Laws

open Sys2Proof.Machine

/-! ## Codes and words -/

@[simp] theorem stOfCode_stCode (st : St) : stOfCode (stCode st) = st := by cases st <;> rfl

@[simp] theorem decode_stCode (st : St) : decode (.state (stCode st)) = .ok (instrOfSt st) := by
  simp [decode]

@[simp] theorem decode_cmd (w : CmdWord) : decode (.cmd w) = .ok (instrOfCmd w) := rfl

@[simp] theorem cmdOpOf_cmdWordOf (op : CmdOp) (v : Raw) : cmdOpOf (cmdWordOf op v) = op := by
  cases op <;> simp [cmdOpOf, cmdWordOf]

@[simp] theorem cmdValueOf_cmdWordOf (op : CmdOp) (v : Raw) : cmdValueOf (cmdWordOf op v) = v := by
  cases op
  · exact BitVec.eq_of_getLsbD_eq fun i hi => by
      simp only [cmdValueOf, cmdWordOf, BitVec.getLsbD_extractLsb', BitVec.getLsbD_setWidth]
      simp [hi, show i < 17 by omega]
  · refine BitVec.eq_of_getLsbD_eq fun i hi => ?_
    have h16 : BitVec.getLsbD (0x10000 : CmdWord) i = false := by interval_cases i <;> rfl
    simp only [cmdValueOf, cmdWordOf, BitVec.getLsbD_extractLsb', BitVec.getLsbD_or, BitVec.getLsbD_setWidth]
    rw [Nat.zero_add, h16]
    simp [hi, show i < 17 by omega]

/-- Running the command a word stands for is accepting it (R67, R91). -/
theorem exec_instrOfCmd (w : CmdWord) (s : State) :
    exec (instrOfCmd w) s = .next (s.accept (cmdOpOf w) (cmdValueOf w)) := by
  unfold instrOfCmd
  cases h : cmdOpOf w <;> rfl

/-! ## Buffers and frames -/

/-- The current frame, when `txlen` names offsets the TX space has. -/
theorem txFrame_eq (s : State) (h : s.txlen.toNat ≤ 6) :
    s.txFrame = some (Memory.readList s.txbuf 0 s.txlen.toNat) := if_pos h

theorem txFrame_none (s : State) (h : 6 < s.txlen.toNat) : s.txFrame = none :=
  if_neg (Nat.not_le.mpr h)

/-- Reading back a list of bytes just written. -/
theorem memory_readList_writeList (bs : List Byte) (m : Memory) (a n : Nat) (h : Memory.wf m = true)
    (hn : n ≤ bs.length) : Memory.readList (Memory.writeList m a bs) a n = bs.take n := by
  have key : ∀ k j, j + k ≤ bs.length →
      Memory.readList (Memory.writeList m a bs) (a + j) k = (bs.drop j).take k := by
    intro k
    induction k with
    | zero => intro j _; simp [Memory.readList]
    | succ k ih =>
      intro j hj
      have hlt : j < bs.length := by omega
      rw [Memory.readList, memory_read_writeList bs m a (a + j) h, if_pos ⟨by omega, by omega⟩, Nat.add_assoc,
        ih (j + 1) (by omega), List.drop_eq_getElem_cons hlt, List.take_succ_cons, Nat.add_sub_cancel_left,
        List.getD_eq_getElem _ _ hlt]
  simpa using key n 0 (by omega)

/-- After `loadFrame` the current frame is the frame loaded (R25). -/
theorem txFrame_loadFrame (s : State) (bs : List Byte) (h : Memory.wf s.txbuf = true) (hl : bs.length ≤ 6) :
    (s.loadFrame bs).txFrame = some bs := by
  have hlen : (s.loadFrame bs).txlen.toNat = bs.length := by
    simp only [loadFrame_txlen, BitVec.toNat_ofNat]
    exact Nat.mod_eq_of_lt (by omega)
  rw [txFrame_eq _ (by omega), hlen, loadFrame_txbuf, memory_readList_writeList _ _ _ _ h (by simp)]
  simp

/-- `loadFrame` writes the six bytes of the TX space, the frame and zeros after it (R25). -/
theorem read_loadFrame (s : State) (bs : List Byte) (k : Nat) (h : Memory.wf s.txbuf = true) (hl : bs.length ≤ 6) :
    Memory.read (s.loadFrame bs).txbuf k = if k < 6 then bs.getD k 0 else Memory.read s.txbuf k := by
  have hlen : (bs ++ List.replicate (txSize - bs.length) (0 : Byte)).length = 6 := by
    simp [txSize, setFrameLen]; omega
  rw [loadFrame_txbuf, memory_read_writeList _ _ _ _ h, hlen]
  by_cases hk : k < 6
  · rw [if_pos ⟨by omega, by omega⟩, if_pos hk]
    simp only [Nat.sub_zero, List.getD_eq_getElem?_getD]
    by_cases hb : k < bs.length
    · rw [List.getElem?_append_left hb]
    · rw [List.getElem?_append_right (by omega), List.getElem?_eq_none (l := bs) (by omega), List.getElem?_replicate]
      split <;> rfl
  · rw [if_neg (by omega), if_neg hk]

/-- `loadFrame` keeps the TX space canonical and inside its six offsets. -/
theorem loadFrame_txSpace (s : State) (bs : List Byte) (h : Memory.wf s.txbuf = true)
    (hb : Memory.below txSize s.txbuf = true) (hl : bs.length ≤ 6) :
    Memory.wf (s.loadFrame bs).txbuf = true ∧ Memory.below txSize (s.loadFrame bs).txbuf = true :=
  ⟨memory_writeList_wf _ _ _ h, memory_writeList_below _ _ _ _ hb (by simp [txSize, setFrameLen]; omega)⟩

/-- Filling `rxbuf`: it happens exactly for at most `RESP_LEN` bytes (R46). -/
theorem fillRx_cases (s : State) (data : List Byte) :
    (data.length ≤ s.cfg.respLen ∧ s.fillRx data = some (s.setRx (Memory.writeList s.rxbuf 0 data))) ∨
    (s.cfg.respLen < data.length ∧ s.fillRx data = none) := by
  by_cases h : data.length ≤ s.cfg.respLen
  · exact .inl ⟨h, if_pos h⟩
  · exact .inr ⟨by omega, if_neg h⟩

/-- The response decoder's two outcomes on `rxbuf` (R85). -/
theorem decodeRx_cases (s : State) :
    (Memory.read s.rxbuf srcOff = displayAddr ∧ s.decodeRx = .value s.curLo) ∨
    (Memory.read s.rxbuf srcOff ≠ displayAddr ∧ s.decodeRx = .invalidResponse) := by
  by_cases h : Memory.read s.rxbuf srcOff = displayAddr
  · exact .inl ⟨h, if_pos h⟩
  · exact .inr ⟨h, if_neg h⟩

/-! ## Accepting, waiting, ending -/

/-- ACCEPT's three cases (R91, R92). -/
theorem accept_cases (s : State) (op : CmdOp) (v : Raw) :
    (s.cmdReady = true ∧ s.xportAvail = true ∧
      s.accept op v =
        { s.unspecify with op := op, raw := v, resKind := .none, st := .building }.emit (.accept op v true)) ∨
    (s.cmdReady = true ∧ s.xportAvail = false ∧
      s.accept op v =
        ({ s with op := op, raw := v }.emit (.accept op v false)).endRequest .connectionUnavailable none none .failed) ∨
    (s.cmdReady = false ∧ s.accept op v = s) := by
  unfold State.accept
  cases hr : s.cmdReady <;> cases ha : s.xportAvail <;> simp

/-- A quiescent state moves only for the host (R107). -/
theorem quiesce_cases (s : State) :
    (s.turn = .host ∧ s.quiesce = s.accept (cmdOpOf s.cmdWord) (cmdValueOf s.cmdWord)) ∨
    (s.turn ≠ .host ∧ s.quiesce = s) := by
  unfold State.quiesce
  cases h : s.turn <;> simp

/-! ## The sequencer -/

/-- `DELAY_TICKS` fits the register that is loaded with it (R20, R27). -/
@[simp] theorem dlyLoad_toNat (c : Config) : c.dlyLoad.toNat = c.delayTicks := by
  simp [Config.dlyLoad, Config.dlyW, Nat.mod_eq_of_lt Nat.lt_log2_self]

/-- BUILD in one update (R93). -/
theorem build_eq (s : State) :
    s.build = { s with
      lum := lumAfterBuild s.op s.raw s.lum
      txbuf := (s.loadFrame s.builtFrame).txbuf
      txlen := BitVec.ofNat 3 s.builtFrame.length
      ck := s.builtFrame.getLastD s.ck
      wrLeft := writesFor s.op
      dly := s.cfg.dlyLoad
      st := .delaying } := rfl

/-- DELAY expiry's cases (R95). -/
theorem expire_cases (s : State) :
    (s.dly = 0 ∧ s.wrLeft = 0 ∧ s.expire = { s with st := .reading }.emit .delay) ∨
    (s.dly = 0 ∧ s.wrLeft ≠ 0 ∧ s.expire = { s with st := .writing }.emit .delay) ∨
    (s.dly ≠ 0 ∧ s.expire = s) := by
  unfold State.expire
  by_cases hd : s.dly = 0
  · by_cases hw : s.wrLeft = 0
    · exact .inl ⟨hd, hw, by rw [if_pos hd, if_pos hw]⟩
    · exact .inr (.inl ⟨hd, hw, by rw [if_pos hd, if_neg hw]⟩)
  · exact .inr (.inr ⟨hd, if_neg hd⟩)

/-- WRITE answer's cases when it answers a next state (R97). -/
theorem writeAnswer_cases (s t : State) (h : writeAnswer s = .next t) :
    ∃ f, s.txFrame = some f ∧
      ((s.xwStatus ≠ 0 ∧
        t = (s.answered.emit (.write f s.xwStatus)).endRequest .writeFailed none (some s.xwStatus) .failed) ∨
      (s.xwStatus = 0 ∧ s.wrLeft ≠ 0 ∧ (s.wrLeft - 1 ≠ 0 ∨ s.op = .get) ∧
        t = { s.answered.emit (.write f 0) with wrLeft := s.wrLeft - 1 }.enterDelay) ∨
      (s.xwStatus = 0 ∧ s.wrLeft - 1 = 0 ∧ s.wrLeft ≠ 0 ∧ s.op = .set ∧
        t = { s.answered.emit (.write f 0) with wrLeft := s.wrLeft - 1 }.endRequest .ok none none .done)) := by
  unfold writeAnswer at h
  cases hf : s.txFrame with
  | none => simp [hf] at h
  | some f =>
    refine ⟨f, rfl, ?_⟩
    simp only [hf, statusFailed, bne_iff_ne, ne_eq, complete_eq, raise_eq] at h
    by_cases hc : s.xwStatus = 0
    · simp only [hc, not_true_eq_false, if_false] at h
      by_cases hw : s.wrLeft = 0
      · simp [hw] at h
      · simp only [hw, if_false] at h
        by_cases hm : s.wrLeft - 1 ≠ 0 ∨ s.op = .get
        · rw [if_pos hm] at h
          exact .inr (.inl ⟨hc, hw, hm, (Host.Outcome.next.inj h).symm⟩)
        · rw [if_neg hm] at h
          obtain ⟨h1, h2⟩ := not_or.1 hm
          refine .inr (.inr ⟨hc, by simpa using h1, hw, ?_, (Host.Outcome.next.inj h).symm⟩)
          cases ho : s.op <;> simp_all
    · simp only [hc, not_false_eq_true, if_true] at h
      exact .inl ⟨hc, (Host.Outcome.next.inj h).symm⟩

/-- READ answer's cases when it answers a next state (R99). -/
theorem readAnswer_cases (s t : State) (h : readAnswer s = .next t) :
    s.xrData.length ≤ s.cfg.respLen ∧
      ((s.xrStatus ≠ 0 ∧
        t = (s.answered.emit (.read s.cfg.respLen s.xrStatus s.xrData)).endRequest .readFailed none (some s.xrStatus)
          .failed) ∨
      (s.xrStatus = 0 ∧
        t = { s.setRx (Memory.writeList s.rxbuf 0 s.xrData) with st := .decoding }.answered.emit
          (.read s.cfg.respLen 0 s.xrData))) := by
  unfold readAnswer at h
  rcases fillRx_cases s s.xrData with ⟨hl, hf⟩ | ⟨_, hf⟩
  · refine ⟨hl, ?_⟩
    simp only [hf, statusFailed, bne_iff_ne, ne_eq, raise_eq] at h
    by_cases hc : s.xrStatus = 0
    · rw [if_neg (not_not_intro hc)] at h
      exact .inr ⟨hc, hc ▸ (Host.Outcome.next.inj h).symm⟩
    · rw [if_pos hc] at h
      exact .inl ⟨hc, (Host.Outcome.next.inj h).symm⟩
  · simp [hf] at h

/-- DECODE's two cases (R100). -/
theorem decodeStep_cases (s : State) :
    (Memory.read s.rxbuf srcOff = displayAddr ∧ s.decodeStep = s.endRequest .value (some s.curLo) none .done) ∨
    (Memory.read s.rxbuf srcOff ≠ displayAddr ∧ s.decodeStep = s.endRequest .invalidResponse none none .failed) := by
  unfold State.decodeStep
  rcases decodeRx_cases s with ⟨h, hd⟩ | ⟨h, hd⟩
  · exact .inl ⟨h, by simp [hd]⟩
  · exact .inr ⟨h, by simp [hd]⟩

/-- A tick's two cases (R94); the counter never wraps. -/
theorem countTick_cases (s : State) :
    (s.dly = 0 ∧ s.countTick = s) ∨
    (s.dly ≠ 0 ∧ s.countTick = { s with dly := s.dly - 1 } ∧ (s.dly - 1).toNat = s.dly.toNat - 1) := by
  unfold State.countTick
  by_cases h : s.dly = 0
  · exact .inl ⟨h, if_pos h⟩
  · refine .inr ⟨h, if_neg h, ?_⟩
    have h0 : s.dly.toNat ≠ 0 := fun hz => h (BitVec.eq_of_toNat_eq (by simpa using hz))
    have hlt := s.dly.isLt
    have hw : 1 < 2 ^ s.cfg.dlyW := Nat.one_lt_two_pow (Nat.succ_ne_zero _)
    have h1 : (1 : BitVec s.cfg.dlyW).toNat = 1 := Nat.mod_eq_of_lt hw
    rw [BitVec.toNat_sub, h1,
      show 2 ^ s.cfg.dlyW - 1 + s.dly.toNat = (s.dly.toNat - 1) + 2 ^ s.cfg.dlyW by omega, Nat.add_mod_right,
      Nat.mod_eq_of_lt (by omega)]

/-- A response delivered: it happens exactly for at most `RESP_LEN` bytes, which fill a zero-filled buffer, and is then decoded
(R46, R100). -/
theorem deliver_cases (s : State) (bytes : List Byte) :
    (bytes.length ≤ s.cfg.respLen ∧
      s.deliver bytes = .next (s.setRx (Memory.writeList [] 0 bytes)).decodeStep) ∨
    (s.cfg.respLen < bytes.length ∧ s.deliver bytes = .refused .overlongRead) := by
  unfold State.deliver
  rcases fillRx_cases (s.setRx []) bytes with ⟨h, hf⟩ | ⟨h, hf⟩
  · exact .inl ⟨h, by rw [hf]; rfl⟩
  · exact .inr ⟨h, by rw [hf]⟩

/-! ## Fetching and stepping -/

@[simp] theorem drive_sched (s : State) (m : Move) : (s.drive m).sched = s.sched.tail := rfl
@[simp] theorem drive_turn (s : State) (m : Move) : (s.drive m).turn = m.turn := rfl
@[simp] theorem drive_cmdWord (s : State) (m : Move) : (s.drive m).cmdWord = m.cmdWord s.cmdWord := rfl
@[simp] theorem drive_xportAvail (s : State) (m : Move) : (s.drive m).xportAvail = m.xportAvail s.xportAvail := rfl
@[simp] theorem drive_xwStatus (s : State) (m : Move) : (s.drive m).xwStatus = m.xwStatus s.xwStatus := rfl
@[simp] theorem drive_xrStatus (s : State) (m : Move) : (s.drive m).xrStatus = m.xrStatus s.xrStatus := rfl
@[simp] theorem drive_xrData (s : State) (m : Move) : (s.drive m).xrData = m.xrData s.xrData := rfl
@[simp] theorem drive_cfg (s : State) (m : Move) : (s.drive m).cfg = s.cfg := rfl
@[simp] theorem drive_st (s : State) (m : Move) : (s.drive m).st = s.st := rfl
@[simp] theorem drive_op (s : State) (m : Move) : (s.drive m).op = s.op := rfl
@[simp] theorem drive_raw (s : State) (m : Move) : (s.drive m).raw = s.raw := rfl
@[simp] theorem drive_lum (s : State) (m : Move) : (s.drive m).lum = s.lum := rfl
@[simp] theorem drive_txbuf (s : State) (m : Move) : (s.drive m).txbuf = s.txbuf := rfl
@[simp] theorem drive_txlen (s : State) (m : Move) : (s.drive m).txlen = s.txlen := rfl
@[simp] theorem drive_wrLeft (s : State) (m : Move) : (s.drive m).wrLeft = s.wrLeft := rfl
@[simp] theorem drive_dly (s : State) (m : Move) : (s.drive m).dly = s.dly := rfl
@[simp] theorem drive_pend (s : State) (m : Move) : (s.drive m).pend = s.pend := rfl
@[simp] theorem drive_rxbuf (s : State) (m : Move) : (s.drive m).rxbuf = s.rxbuf := rfl
@[simp] theorem drive_ck (s : State) (m : Move) : (s.drive m).ck = s.ck := rfl
@[simp] theorem drive_resKind (s : State) (m : Move) : (s.drive m).resKind = s.resKind := rfl
@[simp] theorem drive_resValue (s : State) (m : Move) : (s.drive m).resValue = s.resValue := rfl
@[simp] theorem drive_resCode (s : State) (m : Move) : (s.drive m).resCode = s.resCode := rfl
@[simp] theorem drive_inflight (s : State) (m : Move) : (s.drive m).inflight = s.inflight := rfl
@[simp] theorem drive_hist (s : State) (m : Move) : (s.drive m).hist = s.hist := rfl
@[simp] theorem drive_direct (s : State) (m : Move) : (s.drive m).direct = s.direct := rfl
@[simp] theorem drive_free (s : State) (m : Move) : (s.drive m).free = s.free := rfl
@[simp] theorem drive_txFrame (s : State) (m : Move) : (s.drive m).txFrame = s.txFrame := rfl
@[simp] theorem drive_builtFrame (s : State) (m : Move) : (s.drive m).builtFrame = s.builtFrame := rfl

/-- Only the host's offer is the host's turn. -/
theorem move_turn_ne_host (m : Move) (h : ∀ w a, m ≠ .offer w a) : m.turn ≠ .host := by
  cases m <;> simp_all [Move.turn]

theorem drive_turn_ne_host (s : State) (m : Move) (h : ∀ w a, m ≠ .offer w a) : (s.drive m).turn ≠ .host :=
  move_turn_ne_host m h

@[simp] theorem fetchFrom_ok (w : Encoded) (s : State) (i : Instr) (h : decode w = .ok i) : fetchFrom w s = .run i s := by
  simp only [fetchFrom, h]

/-- At any turn but the host's the code of `st` is fetched. -/
theorem fetchWord_state (s : State) (h : s.turn ≠ .host) : s.fetchWord = .state (stCode s.st) := by
  unfold State.fetchWord
  cases ht : s.turn <;> simp_all

@[simp] theorem fetchWord_offer (s : State) (w : CmdWord) (a : Bool) : (s.drive (.offer w a)).fetchWord = .cmd w := rfl

/-- A move fetches in the state it has driven. -/
theorem fetch_move (s : State) (hd : s.direct = none) (hr : s.nextMove ≠ .rst) :
    fetch s = fetchFrom (s.drive s.nextMove).fetchWord (s.drive s.nextMove) := by
  simp only [fetch, hd, if_neg hr]

/-- A directly driven word is fetched at the engine's turn and consumed. -/
theorem fetch_direct (s : State) (w : Encoded) (hd : s.direct = some w) :
    fetch s = fetchFrom w { s with direct := none, turn := .engine } := by
  simp only [fetch, hd]

/-- A step without a directly driven word or a reset: the host's offer runs the command, any other move runs the
micro-operation of the state the engine is in (R11, R74). -/
theorem step_move (s : State) (hd : s.direct = none) (hr : s.nextMove ≠ .rst) :
    (∃ w a, s.nextMove = .offer w a ∧
      step s = .next ((s.drive (.offer w a)).accept (cmdOpOf w) (cmdValueOf w))) ∨
    ((∀ w a, s.nextMove ≠ .offer w a) ∧ step s = exec (instrOfSt s.st) (s.drive s.nextMove)) := by
  by_cases ho : ∃ w a, s.nextMove = .offer w a
  · obtain ⟨w, a, hm⟩ := ho
    refine .inl ⟨w, a, hm, ?_⟩
    rw [step, fetch_move s hd hr, hm, fetchWord_offer, fetchFrom_ok _ _ _ (decode_cmd w)]
    exact exec_instrOfCmd _ _
  · have hm : ∀ w a, s.nextMove ≠ .offer w a := fun w a h => ho ⟨w, a, h⟩
    refine .inr ⟨hm, ?_⟩
    rw [step, fetch_move s hd hr, fetchWord_state _ (move_turn_ne_host _ hm), fetchFrom_ok _ _ _ (decode_stCode _), drive_st]

/-- The host's reset wins over everything (R126, R140). -/
theorem step_rst (s : State) (hd : s.direct = none) (hr : s.nextMove = .rst) :
    step s = .next (s.drive .rst).applyReset := by
  simp [step, fetch, hd, hr]

end Sys2Proof.Laws
end

