-- ==== Sys2Proof/Laws/PerInstr.lean ====
section
/-! SUPPORT. One law per row of the opcode table: the word that a well-formed instruction of the row has (30_encoding.md R61,
R62, R66 to R69, R74). -/

namespace Sys2Proof.Laws.TableRow

open Sys2Proof.Machine

/-- The row's fixed bits, its length and its fields, in the word of a well-formed instruction. -/
def Statement (i : Instr) : Prop :=
  ∀ cfg : Config, i.wf cfg = true →
    match i with
    | .getFrame c => encode i = .req [0x82, 0x01, 0x10, c] ∧ c = cfg.ck0Get ^^^ 0x93
    | .setFrame hi lo c => encode i = .req [0x84, 0x03, 0x10, hi, lo, c] ∧ c = cfg.ck0Set ^^^ (0x97 ^^^ hi ^^^ lo)
    | .get v => ∃ w, encode i = .cmd w ∧ cmdOpOf w = .get ∧ cmdValueOf w = v
    | .set v => ∃ w, encode i = .cmd w ∧ cmdOpOf w = .set ∧ cmdValueOf w = v
    | .vcpReply _ hi lo _ => ∃ bytes, encode i = .resp bytes ∧ bytes.length = cfg.respLen ∧
        bytes.getD 0 0 = 0x6E ∧ bytes.getD 8 0 = hi ∧ bytes.getD 9 0 = lo
    | .stIdle => encode i = .state 0
    | .stBuilding => encode i = .state 1
    | .stDelaying => encode i = .state 2
    | .stWriting => encode i = .state 3
    | .stReading => encode i = .state 4
    | .stDecoding => encode i = .state 5
    | .stDone => encode i = .state 6
    | .stFailed => encode i = .state 7
    | .resNone => encode i = .res 0
    | .resValue => encode i = .res 1
    | .resOk => encode i = .res 2
    | .resConnectionUnavailable => encode i = .res 3
    | .resWriteFailed => encode i = .res 4
    | .resReadFailed => encode i = .res 5
    | .resInvalidResponse => encode i = .res 6

theorem getFrame (c : Byte) : Statement (.getFrame c) := fun cfg h =>
  ⟨rfl, by simpa [Instr.wf, getCksum_eq] using h⟩

theorem setFrame (hi lo c : Byte) : Statement (.setFrame hi lo c) := fun cfg h =>
  ⟨rfl, by simpa [Instr.wf, setCksum_eq] using h⟩

theorem get (v : Raw) : Statement (.get v) := fun _ _ => ⟨_, rfl, cmdOpOf_cmdWordOf _ _, cmdValueOf_cmdWordOf _ _⟩

theorem set (v : Raw) : Statement (.set v) := fun _ _ => ⟨_, rfl, cmdOpOf_cmdWordOf _ _, cmdValueOf_cmdWordOf _ _⟩

theorem vcpReply (mid : List Byte) (hi lo : Byte) (tail : List Byte) : Statement (.vcpReply mid hi lo tail) := by
  intro cfg h
  obtain ⟨hm, ht⟩ : mid.length = 7 ∧ tail.length + 10 = cfg.respLen := by simpa [Instr.wf] using h
  refine ⟨_, rfl, by simp; omega, rfl, ?_, ?_⟩
  · rw [List.getD_cons_succ, List.getD_append_right _ _ _ _ (by omega), hm]; rfl
  · rw [List.getD_cons_succ, List.getD_append_right _ _ _ _ (by omega), hm]; rfl

theorem stIdle : Statement .stIdle := fun _ _ => rfl

theorem stBuilding : Statement .stBuilding := fun _ _ => rfl

theorem stDelaying : Statement .stDelaying := fun _ _ => rfl

theorem stWriting : Statement .stWriting := fun _ _ => rfl

theorem stReading : Statement .stReading := fun _ _ => rfl

theorem stDecoding : Statement .stDecoding := fun _ _ => rfl

theorem stDone : Statement .stDone := fun _ _ => rfl

theorem stFailed : Statement .stFailed := fun _ _ => rfl

theorem resNone : Statement .resNone := fun _ _ => rfl

theorem resValue : Statement .resValue := fun _ _ => rfl

theorem resOk : Statement .resOk := fun _ _ => rfl

theorem resConnectionUnavailable : Statement .resConnectionUnavailable := fun _ _ => rfl

theorem resWriteFailed : Statement .resWriteFailed := fun _ _ => rfl

theorem resReadFailed : Statement .resReadFailed := fun _ _ => rfl

theorem resInvalidResponse : Statement .resInvalidResponse := fun _ _ => rfl

end Sys2Proof.Laws.TableRow
end

