-- ==== Sys2Proof/Laws/Step.lean ====
section
/-! SUPPORT. What one step can do, said once: the micro-operations' cases, then the step's. Every invariant is proved from
these, without unfolding a meaning again. -/

namespace Sys2Proof.Laws

open Sys2Proof.Machine

/-- What the micro-operation of the state the engine is in can do, at any agent's event but the host's offer. -/
theorem sequencer_cases (u t : State) (hh : u.turn ≠ .host) (h : exec (instrOfSt u.st) u = .next t) :
    t = u ∨
    (u.st = .building ∧ u.turn = .engine ∧ t = u.build) ∨
    (u.st = .delaying ∧ u.turn = .tick ∧ t = u.countTick) ∨
    (u.st = .delaying ∧ u.turn = .engine ∧ t = u.expire) ∨
    (u.st = .writing ∧ u.turn = .engine ∧ u.pend = false ∧ ∃ f, u.txFrame = some f ∧ t = u.issue (.write f)) ∨
    (u.st = .writing ∧ u.turn = .writeDone ∧ u.pend = true ∧ writeAnswer u = .next t) ∨
    (u.st = .reading ∧ u.turn = .engine ∧ u.pend = false ∧ t = (u.setRx []).issue (.read u.cfg.respLen)) ∨
    (u.st = .reading ∧ u.turn = .readDone ∧ u.pend = true ∧ readAnswer u = .next t) ∨
    (u.st = .decoding ∧ u.turn = .engine ∧ t = u.decodeStep) := by
  have hq : u.quiesce = u := by
    rcases quiesce_cases u with ⟨h1, _⟩ | ⟨_, h2⟩
    · exact absurd h1 hh
    · exact h2
  cases hs : u.st with
  | idle | done | failed =>
    simp only [hs, instrOfSt, exec, execStIdle, execStDone, execStFailed, hq, Host.Outcome.next.injEq] at h
    exact .inl h.symm
  | building =>
    simp only [hs, instrOfSt, exec, execStBuilding] at h
    cases ht : u.turn <;> simp only [ht, Host.Outcome.next.injEq] at h <;> simp [h]
  | delaying =>
    simp only [hs, instrOfSt, exec, execStDelaying] at h
    cases ht : u.turn <;> simp only [ht, Host.Outcome.next.injEq] at h <;> simp [← h]
  | writing =>
    simp only [hs, instrOfSt, exec, execStWriting] at h
    cases ht : u.turn with
    | engine =>
      simp only [ht] at h
      cases hp : u.pend <;> simp only [hp, Bool.false_eq_true, if_false, if_true] at h
      · unfold writeIssue at h
        cases hf : u.txFrame with
        | none => simp [hf] at h
        | some f => simp only [hf, Host.Outcome.next.injEq] at h; simp [← h]
      · exact .inl (Host.Outcome.next.inj h).symm
    | writeDone =>
      simp only [ht] at h
      cases hp : u.pend <;> simp only [hp, Bool.false_eq_true, if_false, if_true] at h
      · exact .inl (Host.Outcome.next.inj h).symm
      · simp [h]
    | host | tick | readDone => simp only [ht] at h; exact .inl (Host.Outcome.next.inj h).symm
  | reading =>
    simp only [hs, instrOfSt, exec, execStReading] at h
    cases ht : u.turn with
    | engine =>
      simp only [ht] at h
      cases hp : u.pend <;> simp only [hp, Bool.false_eq_true, if_false, if_true] at h
      · simp only [readIssue, Host.Outcome.next.injEq] at h; simp [← h]
      · exact .inl (Host.Outcome.next.inj h).symm
    | readDone =>
      simp only [ht] at h
      cases hp : u.pend <;> simp only [hp, Bool.false_eq_true, if_false, if_true] at h
      · exact .inl (Host.Outcome.next.inj h).symm
      · simp [h]
    | host | tick | writeDone => simp only [ht] at h; exact .inl (Host.Outcome.next.inj h).symm
  | decoding =>
    simp only [hs, instrOfSt, exec, execStDecoding] at h
    cases ht : u.turn <;> simp only [ht, Host.Outcome.next.injEq] at h <;> simp [h]

/-- What one step can do when no word is driven directly: reset, take a command, or one micro-operation. -/
theorem step_cases (s t : State) (hd : s.direct = none) (h : step s = .next t) :
    (s.nextMove = .rst ∧ t = (s.drive .rst).applyReset) ∨
    (∃ w a, s.nextMove = .offer w a ∧ t = (s.drive (.offer w a)).accept (cmdOpOf w) (cmdValueOf w)) ∨
    ((∀ w a, s.nextMove ≠ .offer w a) ∧ s.nextMove ≠ .rst ∧
      exec (instrOfSt s.st) (s.drive s.nextMove) = .next t) := by
  by_cases hr : s.nextMove = .rst
  · rw [step_rst s hd hr] at h
    exact .inl ⟨hr, (Host.Outcome.next.inj h).symm⟩
  · rcases step_move s hd hr with ⟨w, a, hm, hs⟩ | ⟨hm, hs⟩
    · rw [hs] at h
      exact .inr (.inl ⟨w, a, hm, (Host.Outcome.next.inj h).symm⟩)
    · exact .inr (.inr ⟨hm, hr, hs ▸ h⟩)

@[simp] theorem run_zero (s : State) : Host.Core.run core 0 s = .next s := rfl

/-- A run whose first step answers a next state goes on from it. -/
theorem run_succ (n : Nat) (s t : State) (h : step s = .next t) : Host.Core.run core (n + 1) s = Host.Core.run core n t := by
  have hc : core.step s = .next t := h
  simp only [Host.Core.run, hc]

end Sys2Proof.Laws
end

