-- ==== Sys2Proof/Tests/Slice0.lean ====
section
/-! SUPPORT. The model's own tests, their expected results from 95_test_vectors.md and the rules, and for every statement with
hypotheses a witness that meets them, clause by clause at the ends of their ranges. All tests run the default instantiation of
00_scope.md R6 (`Config.defaults`, log 25). -/

namespace Sys2Proof.Tests

open Sys2Proof Sys2Proof.Machine

/-! ## Helpers -/

/-- The state after reset in the default build. -/
def base : State := { State.reset with cfg := Config.defaults, dly := 0 }

/-- A delay in a build with `DELAY_TICKS` = 3, one tick counted (R94's example). -/
def slowDelaying : State :=
  { State.reset with cfg := { Config.defaults with delayExtra := 2 }, dly := 2, st := .delaying, wrLeft := 1 }

/-- A GET in `Writing`, its delay over (R38). -/
def getWriting : State :=
  { base with st := .writing, txbuf := [(0, 0x82), (1, 0x01), (2, 0x10), (3, 0xAC)], txlen := 4, wrLeft := 1,
              hist := [.accept .get 0 true, .delay] }

/-- A `SET 50` in `Writing`, its first delay over. -/
def setWriting : State :=
  { base with st := .writing, op := .set, raw := 50, lum := 50, txlen := 6, wrLeft := 2,
              txbuf := [(0, 0x84), (1, 0x03), (2, 0x10), (4, 0x32), (5, 0x9A)], hist := [.accept .set 50 true, .delay] }

/-- The GET, its write answered, its second delay just begun. -/
def getDelaying : State :=
  { getWriting with st := .delaying, wrLeft := 0, dly := 1,
                    hist := [.accept .get 0 true, .delay, .write [0x82, 0x01, 0x10, 0xAC] 0] }

/-- The GET waiting for its read's answer. -/
def getReading : State :=
  { getDelaying with st := .reading, dly := 0, pend := true, inflight := some (.read 12), hist := getDelaying.hist ++ [.delay] }

/-- Twelve bytes of a response (V-SQ 14). -/
def reply : List Byte := [0x6E, 0x11, 0x22, 0x33, 0x44, 0x55, 0x66, 0x77, 0x00, 0x4B, 0x88, 0x99]

/-- The GET in `Decoding`, with that response. -/
def getDecoding : State :=
  { getReading with st := .decoding, pend := false, inflight := none, rxbuf := Memory.writeList [] 0 reply,
                    hist := getReading.hist ++ [.read 12 0 reply] }

/-- The outcome is a next state with this property. -/
def nextIs (r : Result) (p : State → Bool) : Bool :=
  match r with
  | .next t => p t
  | .fault _ => false
  | .refused _ => false

/-! ## Well-formedness: one ill-formed term for each check -/

theorem test_wf_getFrame : (Instr.getFrame 0xAC).wf Config.defaults = true ∧ (Instr.getFrame 0xAD).wf Config.defaults = false := by
  decide

theorem test_wf_setFrame : (Instr.setFrame 0x00 0x32 0x9A).wf Config.defaults = true ∧
    (Instr.setFrame 0x00 0x32 0x9B).wf Config.defaults = false := by decide

theorem test_wf_vcpReply_mid : (Instr.vcpReply [1, 2, 3, 4, 5, 6] 0 0 [0, 0]).wf Config.defaults = false := by decide

theorem test_wf_vcpReply_tail : (Instr.vcpReply [1, 2, 3, 4, 5, 6, 7] 0 0 [0]).wf Config.defaults = false ∧
    (Instr.vcpReply [1, 2, 3, 4, 5, 6, 7] 0 0 [0, 0]).wf Config.defaults = true := by decide

/-! ## Decoding: every constructor, from words written out of R61, R62, R66 to R69 -/

theorem test_decode_getFrame : decodeTableWord 32 0x820110AC = some (.getFrame 0xAC) := by decide
theorem test_decode_setFrame : decodeTableWord 48 0x84031000329A = some (.setFrame 0x00 0x32 0x9A) := by decide
theorem test_decode_get : decodeTableWord 24 0x00000 = some (.get 0) ∧ decodeTableWord 24 0x0FFFF = some (.get 0xFFFF) := by
  decide
theorem test_decode_set : decodeTableWord 24 0x10096 = some (.set 150) ∧ decodeTableWord 24 0x10000 = some (.set 0) := by decide
theorem test_decode_vcpReply : decodeTableWord 96 0x6E11223344556677004B8899 =
    some (.vcpReply [0x11, 0x22, 0x33, 0x44, 0x55, 0x66, 0x77] 0x00 0x4B [0x88, 0x99]) := by decide
theorem test_decode_states :
    decodeTableWord 8 0 = some .stIdle ∧ decodeTableWord 8 1 = some .stBuilding ∧ decodeTableWord 8 2 = some .stDelaying ∧
    decodeTableWord 8 3 = some .stWriting ∧ decodeTableWord 8 4 = some .stReading ∧ decodeTableWord 8 5 = some .stDecoding ∧
    decodeTableWord 8 6 = some .stDone ∧ decodeTableWord 8 7 = some .stFailed := by decide
theorem test_decode_kinds :
    decode (.res 0) = .ok .resNone ∧ decode (.res 1) = .ok .resValue ∧ decode (.res 2) = .ok .resOk ∧
    decode (.res 3) = .ok .resConnectionUnavailable ∧ decode (.res 4) = .ok .resWriteFailed ∧
    decode (.res 5) = .ok .resReadFailed ∧ decode (.res 6) = .ok .resInvalidResponse := by
  refine ⟨rfl, rfl, rfl, rfl, rfl, rfl, rfl⟩

/-- R68, R70, R63, R71, R66: what is no row is refused by name. -/
theorem test_decode_refuses :
    decodeReq [0x83, 0x01, 0x10, 0xAC] = .error .unknownOpcode ∧ decodeReq [0x82, 0x81, 0x10, 0xAC] = .error .badLengthByte ∧
    decodeReq [0x82, 0x01, 0x12, 0xAC] = .error .badVcpCode ∧ decodeReq [0x82, 0x01, 0x10] = .error .badFrameLength ∧
    decodeResp (0x6F :: reply.tail) = .error .badSourceAddress ∧ decodeResp reply.dropLast = .error .badResponseLength ∧
    decode (.res 7) = .error .reservedKind := by refine ⟨rfl, rfl, rfl, rfl, rfl, rfl, rfl⟩

/-! ## One step of each instruction (V-SQ, V-BS, V-DE) -/

/-- V-BG: `82 01 10 AC`, `txlen` 4, the last two bytes 0. -/
theorem test_getFrame : nextIs (exec (.getFrame 0xAC) setWriting) (fun t =>
    t.txbuf == [(0, 0x82), (1, 0x01), (2, 0x10), (3, 0xAC)] && t.txlen == 4 && t.ck == 0xAC) = true := by decide

/-- V-BS, 50. -/
theorem test_setFrame : nextIs (exec (.setFrame 0x00 0x32 0x9A) base) (fun t =>
    t.xwData == [0x84, 0x03, 0x10, 0x00, 0x32, 0x9A] && t.txlen == 6) = true := by decide

/-- V-SQ 20, from `Failed`. -/
theorem test_get : nextIs (exec (.get 0) { base with st := .failed, resKind := .writeFailed, op := .set, xportAvail := true })
    (fun t => t.st == .building && t.op == .get && t.resKind == .none) = true := by decide

/-- V-SQ 21, from `Done`. -/
theorem test_get_noxport : nextIs (exec (.get 0) { base with st := .done, resKind := .ok, xportAvail := false })
    (fun t => t.st == .failed && t.resKind == .connectionUnavailable && !t.pend && t.txbuf == [] && t.hist.length == 2) = true := by
  decide

/-- V-SQ 1. -/
theorem test_set : nextIs (exec (.set 150) { base with xportAvail := true })
    (fun t => t.st == .building && t.op == .set && t.raw == 150 && t.hist == [.accept .set 150 true]) = true := by decide

/-- V-SQ 19. -/
theorem test_set_busy : nextIs (exec (.set 150) { setWriting with xportAvail := true }) (fun t =>
    t == { setWriting with xportAvail := true }) = true := by decide

/-- V-DE: high byte 0x01 read and ignored, value 0x2C. -/
theorem test_vcpReply : nextIs (exec (.vcpReply [1, 2, 3, 4, 5, 6, 7] 0x01 0x2C [0, 0]) base) (fun t =>
    t.st == .done && t.resKind == .value && t.resValue == 0x2C) = true := by decide

/-- R107: a quiescent state waits. -/
theorem test_stIdle : nextIs (exec .stIdle { base with turn := .tick }) (fun t => t == { base with turn := .tick }) = true := by
  decide

/-- V-SQ 2. -/
theorem test_stBuilding : nextIs (exec .stBuilding { base with st := .building, op := .set, raw := 150 }) (fun t =>
    t.st == .delaying && t.lum == 100 && t.xwData == [0x84, 0x03, 0x10, 0x00, 0x64, 0xCC] && t.txlen == 6 && t.wrLeft == 2 &&
    t.dly == 1) = true := by decide

/-- V-SQ 3, V-SQ 4: a tick counts, and at 0 changes nothing. -/
theorem test_stDelaying_tick : nextIs (exec .stDelaying { slowDelaying with turn := .tick })
      (fun t => t.dly.toNat == 1 && t.st == .delaying) = true ∧
    nextIs (exec .stDelaying { slowDelaying with dly := 0, turn := .tick }) (fun t => t.dly.toNat == 0) = true := by decide

/-- R20: `DLY_W` is 1 for one tick, 2 for three, 3 for four. -/
theorem test_dlyW : Config.defaults.dlyW = 1 ∧ slowDelaying.cfg.dlyW = 2 ∧
    ({ Config.defaults with delayExtra := 3 } : Config).dlyW = 3 := by decide

/-- V-SQ 12. -/
theorem test_stDelaying_expiry : nextIs (exec .stDelaying { getDelaying with dly := 0 }) (fun t =>
    t.st == .reading && !t.pend && t.hist == getDelaying.hist ++ [.delay]) = true := by decide

/-- V-SQ 6. -/
theorem test_stWriting_issue : nextIs (exec .stWriting setWriting) (fun t =>
    t.pend && t.st == .writing && t.inflight == some (.write [0x84, 0x03, 0x10, 0x00, 0x32, 0x9A])) = true := by decide

/-- V-SQ 11: the status -1. -/
theorem test_stWriting_fails : nextIs (exec .stWriting { setWriting with pend := true, turn := .writeDone, xwStatus := -1 })
    (fun t => t.st == .failed && t.resKind == .writeFailed && t.resCode == 0xFFFFFFFF && t.wrLeft == 2 && !t.pend) = true := by
  decide

/-- V-SQ 13. -/
theorem test_stReading_issue : nextIs (exec .stReading { getReading with pend := false, inflight := none, rxbuf := [(3, 1)] })
    (fun t => t.rxbuf == [] && t.pend && t.inflight == some (.read 12)) = true := by decide

/-- V-SQ 14. -/
theorem test_stReading_answer : nextIs (exec .stReading { getReading with turn := .readDone, xrData := reply }) (fun t =>
    t.st == .decoding && !t.pend && Memory.readList t.rxbuf 0 12 == reply) = true := by decide

/-- V-SQ 17. -/
theorem test_stDecoding : nextIs (exec .stDecoding getDecoding) (fun t =>
    t.st == .done && t.resKind == .value && t.resValue == 75) = true := by decide

/-- V-SQ 18: a wrong source byte. -/
theorem test_stDecoding_invalid : nextIs (exec .stDecoding { getDecoding with rxbuf := [(9, 0x4B)] }) (fun t =>
    t.st == .failed && t.resKind == .invalidResponse) = true := by decide

/-- R107: the result stays. -/
theorem test_stDone : nextIs (exec .stDone { base with st := .done, resKind := .value, resValue := 75 }) (fun t =>
    t.resValue == 75 && t.st == .done) = true := by decide

/-- R129: `Failed` is left by the next acceptance. -/
theorem test_stFailed : nextIs (exec .stFailed
    { base with st := .failed, resKind := .readFailed, turn := .host, cmdWord := 0x1004B, xportAvail := true }) (fun t =>
    t.st == .building && t.op == .set && t.raw == 75) = true := by decide

/-- R31. -/
theorem test_resNone : nextIs (exec .resNone { base with resKind := .ok }) (fun t => t.resKind == .none) = true := by decide

/-- R100. -/
theorem test_resValue : nextIs (exec .resValue getDecoding) (fun t => t.resKind == .value && t.resValue == 75) = true := by decide

/-- R97. -/
theorem test_resOk : nextIs (exec .resOk setWriting) (fun t => t.resKind == .ok && t.st == .done) = true := by decide

/-- R121. -/
theorem test_resConnectionUnavailable : nextIs (exec .resConnectionUnavailable base) (fun t =>
    t.resKind == .connectionUnavailable && t.st == .failed) = true := by decide

/-- R122: the status bit for bit. -/
theorem test_resWriteFailed : nextIs (exec .resWriteFailed { base with xwStatus := 0xE00002C2 }) (fun t =>
    t.resKind == .writeFailed && t.resCode == 0xE00002C2) = true := by decide

/-- R123. -/
theorem test_resReadFailed : nextIs (exec .resReadFailed { base with xrStatus := 17 }) (fun t =>
    t.resKind == .readFailed && t.resCode == 17) = true := by decide

/-- R124: `rxbuf[9]` is present and is not returned. -/
theorem test_resInvalidResponse : nextIs (exec .resInvalidResponse { base with rxbuf := [(9, 0x4B)] }) (fun t =>
    t.resKind == .invalidResponse && t.st == .failed && t.rxbuf == [(9, 0x4B)]) = true := by decide

/-! ## The codec's corner cases (V-CL, V-XF) -/

theorem test_clamp : clamp 256 = 100 ∧ clamp 356 = 100 ∧ clamp 65535 = 100 ∧ clamp 99 = 99 ∧ clamp 101 = 100 := by decide
theorem test_xorFold : xorFold 0x12 [0x34, 0x56] = 0x70 ∧ xorFold 0x3F [0x82, 0x01, 0x10, 0xAC] = 0x00 := by decide

/-! ## The text of R72 -/

/-- Program P2's line. -/
theorem test_readLine_set : readLine "SET 50 | W=0, W=-536870206".toList =
    some (.command .set 50 true [.write 0, .write 0xE00002C2]) := by decide
/-- Program P7's first line, and `RESET`. -/
theorem test_readLine_get : readLine "GET @noxport".toList = some (.command .get 0 false []) ∧
    readLine "RESET".toList = some .reset := by decide
/-- A read with data; a hexadecimal operand; an operand over 65535. -/
theorem test_readLine_more : readLine "GET | W=0, R=0:[6E 4b]".toList = some (.command .get 0 true [.write 0, .read 0 [0x6E, 0x4B]]) ∧
    readLine "SET 0xFFFF".toList = some (.command .set 0xFFFF true []) ∧ readLine "SET 65536".toList = none := by decide

/-! ## Witnesses: the hypotheses of every statement that has some -/

theorem inv_base (moves : List Move) : Inv { base with sched := moves } := by
  constructor <;> simp [base, State.reset, State.busy, State.cmdReady, quiescent, St.framed, State.setBuilt, Memory.wf,
    Memory.below]

theorem inv_getWriting : Inv getWriting := by constructor <;> decide
theorem inv_setWriting : Inv setWriting := by constructor <;> decide
theorem inv_getDelaying : Inv getDelaying := by constructor <;> decide
theorem inv_getReading : Inv getReading := by constructor <;> decide
theorem inv_getDecoding : Inv getDecoding := by constructor <;> decide

theorem witness_stepRuns : base.direct = none ∧ base.nextMove ≠ .rst ∧ decode (base.drive base.nextMove).fetchWord = .ok .stIdle :=
  ⟨rfl, by decide, rfl⟩
theorem witness_stepRuns_port : (∀ w a, Move.tick ≠ .offer w a) ∧ Move.tick ≠ .rst := by simp
theorem witness_stepRuns_direct : ({ base with direct := some (.res 2) }).direct = some (.res 2) ∧ decode (.res 2) = .ok .resOk :=
  ⟨rfl, rfl⟩
theorem witness_placedWord : decodeTableWord 8 7 = some .stFailed ∧ decodeTableWord 24 0x1FFFF = some (.set 0xFFFF) := by decide
theorem witness_decodeOfEncode : (Instr.setFrame 0xFF 0x00 0x57).wf Config.defaults = true ∧ (Instr.get 0xFFFF).wf Config.defaults = true := by
  decide
theorem witness_encodeOfDecode : decode (.cmd 0x1FFFF) = .ok (.set 0xFFFF) := rfl
theorem witness_resetWins : ({ getReading with sched := [.rst] }).direct = none ∧ ({ getReading with sched := [.rst] }).nextMove = .rst :=
  ⟨rfl, rfl⟩
theorem witness_idleWaits : ({ base with sched := [.tick, .writeDone 0] }).direct = none ∧
    ({ base with sched := [.tick, .writeDone 0] }).st = .idle ∧
    ∀ m ∈ ({ base with sched := [.tick, .writeDone 0] }).sched, m ≠ .rst ∧ ∀ w a, m ≠ .offer w a :=
  ⟨rfl, rfl, by simp⟩
theorem witness_setFramesDiffer : (0 : Byte) ≠ 100 ∧ 5 < 6 := by decide
theorem witness_setAboveHundred :
    ({ base with op := .set, raw := 101 }).turn = .engine ∧ 100 < ({ base with op := .set, raw := 101 }).raw.toNat := by decide
theorem witness_accept : ({ base with xportAvail := true }).cmdReady = true ∧ getWriting.cmdReady = false := by decide
theorem witness_acceptWithout : base.cmdReady = true ∧ base.xportAvail = false := by decide
theorem witness_frameRows : Memory.wf setWriting.txbuf = true := by decide
theorem witness_replyRow : ([1, 2, 3, 4, 5, 6, 7] : List Byte).length = 7 ∧ ([1, 2] : List Byte).length + 10 ≤ base.cfg.respLen ∧
    base.cfg.respLen < ([1, 2, 3] : List Byte).length + 10 := by decide
theorem witness_decodeStepReply : getDecoding.turn = .engine ∧ Memory.wf getDecoding.rxbuf = true ∧
    Memory.below getDecoding.cfg.respLen getDecoding.rxbuf = true ∧
    (Instr.vcpReply [0x11, 0x22, 0x33, 0x44, 0x55, 0x66, 0x77] 0 0x4B [0x88, 0x99]).wf getDecoding.cfg = true ∧
    encode (.vcpReply [0x11, 0x22, 0x33, 0x44, 0x55, 0x66, 0x77] 0 0x4B [0x88, 0x99]) =
      .resp (Memory.readList getDecoding.rxbuf 0 getDecoding.cfg.respLen) := by decide
theorem witness_build : base.turn = .engine ∧ Memory.wf base.txbuf = true ∧ base.op = .get ∧
    setWriting.turn = .engine ∧ Memory.wf setWriting.txbuf = true ∧ setWriting.op = .set := by decide
theorem witness_tick : ({ getDelaying with turn := .tick }).turn = .tick ∧ getDelaying.st = .delaying ∧ getDelaying.dly ≠ 0 := by
  decide
theorem witness_delayExpiry : getDelaying.turn = .engine ∧ getDelaying.dly ≠ 0 ∧ getDelaying.wrLeft = 0 ∧
    ({ getDelaying with dly := 0 }).dly = 0 ∧ ({ getDelaying with dly := 0, wrLeft := 1 }).wrLeft ≠ 0 := by decide
theorem witness_writeIssue : getWriting.turn = .engine ∧ getWriting.pend = false ∧ getWriting.txlen.toNat ≤ 6 ∧
    getWriting.st = .writing ∧ setWriting.txlen.toNat ≤ 6 := by decide
theorem witness_unreachable : ({ getWriting with txlen := 7 }).turn = .engine ∧ ({ getWriting with txlen := 7 }).pend = false ∧
    ({ getWriting with turn := .writeDone, pend := true, wrLeft := 0 }).xwStatus = 0 ∧
    ({ getWriting with turn := .writeDone, pend := true, wrLeft := 0 }).txlen.toNat ≤ 6 := by decide
theorem witness_writeAnswer_failure :
    ({ setWriting with turn := .writeDone, pend := true, xwStatus := 0x80000000 }).txlen.toNat ≤ 6 ∧ (0x80000000 : Code) ≠ 0 := by
  decide
theorem witness_writeAnswer_goesOn : ({ getWriting with turn := .writeDone, pend := true }).wrLeft ≠ 0 ∧ getWriting.op = .get ∧
    ({ setWriting with turn := .writeDone, pend := true }).wrLeft - 1 ≠ 0 := by decide
theorem witness_writeAnswer_done : ({ setWriting with turn := .writeDone, pend := true, wrLeft := 1 }).wrLeft = 1 ∧
    setWriting.op = .set ∧ setWriting.xwStatus = 0 := by decide
theorem witness_readIssue : ({ getReading with pend := false }).turn = .engine ∧ ({ getReading with pend := false }).pend = false := by
  decide
theorem witness_readAnswer : ({ getReading with turn := .readDone, xrData := reply, xrStatus := 1 }).xrData.length = getReading.cfg.respLen ∧
    ({ getReading with turn := .readDone, xrData := [] }).xrStatus = 0 ∧ Memory.wf getReading.rxbuf = true ∧ getReading.pend = true := by
  decide
theorem witness_overlongRead : getReading.cfg.respLen < (reply ++ [0x00]).length ∧ getReading.pend = true := by decide
theorem witness_decodeStep : getDecoding.turn = .engine ∧ Memory.read getDecoding.rxbuf 0 = 0x6E ∧
    Memory.read ({ getDecoding with rxbuf := [(9, 0x4B)] }).rxbuf 0 ≠ 0x6E := by decide
theorem witness_ignoredBytes : Memory.read [(0, 0x6E), (1, 0xFF), (9, 0x4B)] 0 = Memory.read getDecoding.rxbuf 0 ∧
    Memory.read [(0, 0x6E), (1, 0xFF), (9, 0x4B)] 9 = Memory.read getDecoding.rxbuf 9 := by decide
theorem witness_quiescent : base.turn ≠ .host ∧ ({ base with turn := .host, xportAvail := true }).cmdReady = true := by decide

/-- The GET awaiting its read, the answer with a whole response coming. -/
def getAnswered : State := { getReading with sched := [.readDone 0 reply] }

theorem inv_getAnswered : Inv getAnswered := by constructor <;> decide

/-- The statements over one step from a safe state. -/
theorem witness_safeStep : Inv getAnswered ∧ getAnswered.nextMove.withinInterface getAnswered.cfg = true ∧
    getAnswered.nextMove ≠ .rst ∧ nextIs (step getAnswered) (fun t => t.st == .decoding) = true :=
  ⟨inv_getAnswered, by decide, by decide, by decide⟩
theorem witness_historyFits : Inv getWriting ∧ HistoryFits getWriting ∧ HistoryFits base ∧
    nextIs (step getWriting) (fun t => t.pend) = true :=
  ⟨inv_getWriting, ⟨[], [.delay], rfl, rfl⟩, rfl, by decide⟩
theorem witness_engineStuck : Inv getReading ∧ getReading.nextMove = .engine ∧ getReading.waits = true ∧ getWriting.waits = false :=
  ⟨inv_getReading, rfl, by decide, by decide⟩
theorem witness_historyGrows_direct : nextIs (step { base with direct := some (.res 2) }) (fun t => t.hist.length == 1) = true := by
  decide
theorem witness_frameStable : getWriting.direct = none ∧ getWriting.nextMove ≠ .rst ∧ St.framed getWriting.st = true ∧
    nextIs (step getWriting) (fun _ => true) = true := by decide
theorem witness_kindWritten : nextIs (step getDecoding) (fun t => t.resKind != getDecoding.resKind) = true ∧
    getDecoding.nextMove ≠ .rst := by decide
theorem witness_strayAnswers : ({ getWriting with sched := [.writeDone 5] }).nextMove = .writeDone 5 ∧
    ¬ (getWriting.st = .writing ∧ getWriting.pend = true) ∧
    ({ getWriting with sched := [.readDone 0 reply] }).nextMove = .readDone 0 reply := by decide
theorem witness_hangs : getReading.pend = true ∧ getReading.st = .reading ∧
    (∀ c d, Move.readDone c d ∉ ({ getReading with sched := [.tick, .writeDone 0] }).sched) ∧
    ∀ m ∈ ({ getReading with sched := [.tick, .writeDone 0] }).sched, m ≠ .rst := ⟨rfl, rfl, by simp, by simp⟩
theorem witness_hangs_writing : ({ getWriting with pend := true }).st = .writing ∧
    ∀ c, Move.writeDone c ∉ ({ getWriting with pend := true, sched := [.readDone 0 []] }).sched := ⟨rfl, by simp⟩
theorem witness_delayKept : ({ slowDelaying with sched := [.tick, .engine] }).st = .delaying ∧
    (∀ m ∈ ({ slowDelaying with sched := [.tick, .engine] }).sched.take 2, m ≠ .rst) ∧
    (({ slowDelaying with sched := [.tick, .engine] }).sched.take 2).count Move.tick < slowDelaying.dly.toNat := by decide
theorem witness_getRun : Inv { base with sched := Line.moves base.cfg (.command .get 0 true [.write 0, .read 0 reply]) } ∧
    base.cmdReady = true ∧ reply.length ≤ base.cfg.respLen := ⟨inv_base _, by decide, by decide⟩
theorem witness_setRun : Inv { base with sched := Line.moves base.cfg (.command .set 150 true [.write 0, .write 9]) } ∧
    base.cmdReady = true := ⟨inv_base _, by decide⟩

/-- A wrong source byte, nothing at all, a whole frame: each is decoded (V-DE). -/
theorem witness_drivenResponse :
    nextIs (step { base with direct := some (.resp (0x6F :: reply.tail)) }) (fun t => t.resKind == .invalidResponse) = true ∧
    nextIs (step { base with direct := some (.resp []) }) (fun t => t.resKind == .invalidResponse) = true ∧
    nextIs (step { base with direct := some (.resp [0x6E]) }) (fun t => t.resKind == .value && t.resValue == 0) = true ∧
    nextIs (step { base with direct := some (.resp reply) }) (fun t => t.resKind == .value && t.resValue == 75) = true ∧
    reply.length = base.cfg.respLen := by decide
theorem witness_wordsThatAreNoRow : decode (.req [0x83, 0x01, 0x10, 0xAC]) = .error .unknownOpcode ∧
    ({ base with direct := some (.res 7) }).direct = some (.res 7) := ⟨rfl, rfl⟩

end Sys2Proof.Tests
end

/-! PROOFS. The statements of 00_scope.md: what a step runs and what its move drives (R11, R34), the history (R12, R101, R102,
R128), and the width of the delay counter (R20). -/

/-! ## The history at each position of a request

`requestEvents` said once for each position, so that a proof about a step rewrites with the position it leaves and the one it
enters. -/

namespace Sys2Proof.Scope

open Sys2Proof.Machine Sys2Proof.Laws

section Positions

variable {s : State} {evs : List Event}

theorem requestEvents_building (h : s.st = .building) : requestEvents s evs ↔ evs = [] := by
  simp only [requestEvents, h]

theorem requestEvents_delaying_first (h : s.st = .delaying) (hw : s.wrLeft = writesFor s.op) :
    requestEvents s evs ↔ evs = [] := by
  simp only [requestEvents, h, if_pos hw]

theorem requestEvents_delaying_second (h : s.st = .delaying) (hw : s.wrLeft ≠ writesFor s.op) :
    requestEvents s evs ↔ evs = firstWrite s := by
  simp only [requestEvents, h, if_neg hw]

theorem requestEvents_writing_first (h : s.st = .writing) (hw : s.wrLeft = writesFor s.op) :
    requestEvents s evs ↔ evs = [.delay] := by
  simp only [requestEvents, h, if_pos hw]

theorem requestEvents_writing_second (h : s.st = .writing) (hw : s.wrLeft ≠ writesFor s.op) :
    requestEvents s evs ↔ evs = firstWrite s ++ [.delay] := by
  simp only [requestEvents, h, if_neg hw]

theorem requestEvents_reading (h : s.st = .reading) : requestEvents s evs ↔ evs = firstWrite s ++ [.delay] := by
  simp only [requestEvents, h]

theorem requestEvents_decoding (h : s.st = .decoding) :
    requestEvents s evs ↔ ∃ data, evs = firstWrite s ++ [.delay, .read s.cfg.respLen 0 data] ∧
      data.length ≤ s.cfg.respLen ∧ s.rxbuf = Memory.writeList [] 0 data := by
  simp only [requestEvents, h]

theorem requestEvents_done_get (h : s.st = .done) (ho : s.op = .get) :
    requestEvents s evs ↔ ∃ data, evs = firstWrite s ++ [.delay, .read s.cfg.respLen 0 data, s.resultEvent] ∧
      delivered data srcOff = displayAddr ∧ s.resValue = delivered data valOffLo := by
  simp only [requestEvents, h, ho]

theorem requestEvents_done_set (h : s.st = .done) (ho : s.op = .set) :
    requestEvents s evs ↔ evs = firstWrite s ++ [.delay, .write s.builtFrame 0, s.resultEvent] := by
  simp only [requestEvents, h, ho]

theorem requestEvents_connectionUnavailable (h : s.st = .failed) (hk : s.resKind = .connectionUnavailable) :
    requestEvents s evs ↔ evs = [s.resultEvent] := by
  simp only [requestEvents, h, hk]

theorem requestEvents_writeFailed (h : s.st = .failed) (hk : s.resKind = .writeFailed) :
    requestEvents s evs ↔ s.resCode ≠ 0 ∧
      (evs = [.delay, .write s.builtFrame s.resCode, s.resultEvent] ∨
        (s.op = .set ∧ evs = firstWrite s ++ [.delay, .write s.builtFrame s.resCode, s.resultEvent])) := by
  simp only [requestEvents, h, hk]

theorem requestEvents_readFailed (h : s.st = .failed) (hk : s.resKind = .readFailed) :
    requestEvents s evs ↔ s.resCode ≠ 0 ∧ s.op = .get ∧
      ∃ data, evs = firstWrite s ++ [.delay, .read s.cfg.respLen s.resCode data, s.resultEvent] := by
  simp only [requestEvents, h, hk]

theorem requestEvents_invalidResponse (h : s.st = .failed) (hk : s.resKind = .invalidResponse) :
    requestEvents s evs ↔ s.op = .get ∧
      ∃ data, evs = firstWrite s ++ [.delay, .read s.cfg.respLen 0 data, s.resultEvent] ∧
        delivered data srcOff ≠ displayAddr := by
  simp only [requestEvents, h, hk]

theorem acceptedAvail_of_st_ne_failed (h : s.st ≠ .failed) : s.acceptedAvail = true :=
  decide_eq_true fun hf => absurd hf h

theorem acceptedAvail_of_resKind (h : s.resKind ≠ .connectionUnavailable) : s.acceptedAvail = true :=
  decide_eq_true fun _ => h

theorem acceptedAvail_connectionUnavailable (h : s.st = .failed) (hk : s.resKind = .connectionUnavailable) :
    s.acceptedAvail = false :=
  decide_eq_false fun hf => hf h hk

theorem historyFits_idle_iff (h : s.st = .idle) : HistoryFits s ↔ s.hist = [] := by
  rw [HistoryFits, if_pos h]

theorem historyFits_iff (h : s.st ≠ .idle) :
    HistoryFits s ↔
      ∃ before evs, s.hist = before ++ .accept s.op s.raw s.acceptedAvail :: evs ∧ requestEvents s evs := by
  rw [HistoryFits, if_neg h]

end Positions

/-- A busy engine's step inside its request: the acceptance stands where it was, and the events recorded since it grow from
what the old position calls for to what the new one calls for. -/
theorem historyFits_extend {u t : State} (new : List Event) (hf : HistoryFits u) (hu : quiescent u.st = false)
    (hst : t.st ≠ .idle) (hop : t.op = u.op) (hraw : t.raw = u.raw) (hav : t.acceptedAvail = true)
    (hhist : t.hist = u.hist ++ new) (hev : ∀ evs, requestEvents u evs → requestEvents t (evs ++ new)) :
    HistoryFits t := by
  have hidle : u.st ≠ .idle := fun h => by simp [h, quiescent] at hu
  have hfailed : u.st ≠ .failed := fun h => by simp [h, quiescent] at hu
  obtain ⟨before, evs, hb, he⟩ := (historyFits_iff hidle).1 hf
  rw [acceptedAvail_of_st_ne_failed hfailed] at hb
  refine (historyFits_iff hst).2 ⟨before, evs ++ new, ?_, hev evs he⟩
  rw [hhist, hb, hop, hraw, hav, List.append_assoc, List.cons_append]

/-! ## Which write of the request it is (R26, R38(c), R38(d)) -/

theorem writesFor_ne_zero (op : CmdOp) : writesFor op ≠ 0 := by cases op <;> decide

theorem writesFor_sub_one_ne (op : CmdOp) : writesFor op - 1 ≠ writesFor op := by cases op <;> decide

/-- Past its first write only a SET is in `Writing`, with its last write to do. -/
theorem second_write_is_set {u : State} (hi : Inv u) (hs : u.st = .writing) (hw : u.wrLeft ≠ writesFor u.op) :
    u.op = .set ∧ u.wrLeft = 1 := by
  rcases hi.writingCount hs with h1 | ⟨h2, hset⟩
  · cases ho : u.op with
    | get => exact absurd (by rw [h1, ho]; rfl) hw
    | set => exact ⟨rfl, h1⟩
  · exact absurd (by rw [h2, hset]; rfl) hw

/-- A SET with one write left has done its first. -/
theorem last_write_is_second {u : State} (ho : u.op = .set) (hl : u.wrLeft - 1 = 0) : u.wrLeft ≠ writesFor u.op := by
  intro hw
  rw [hw, ho] at hl
  exact absurd hl (by decide)

/-! ## Each micro-operation keeps the history (R93 to R100) -/

theorem historyFits_build {u : State} (hf : HistoryFits u) (hs : u.st = .building) : HistoryFits u.build := by
  refine historyFits_extend [] hf (hs ▸ rfl) (by simp [build_eq]) rfl rfl rfl (by simp [build_eq]) fun evs he => ?_
  rw [requestEvents_building hs] at he
  rw [requestEvents_delaying_first rfl rfl, he, List.append_nil]

theorem historyFits_countTick {u : State} (hf : HistoryFits u) : HistoryFits u.countTick := by
  rcases countTick_cases u with ⟨_, h⟩ | ⟨_, h, _⟩
  · rwa [h]
  · rw [h]; exact hf

theorem historyFits_expire {u : State} (hf : HistoryFits u) (hs : u.st = .delaying) : HistoryFits u.expire := by
  rcases expire_cases u with ⟨_, hw, h⟩ | ⟨_, _, h⟩ | ⟨_, h⟩
  · have hsecond : u.wrLeft ≠ writesFor u.op := hw ▸ (writesFor_ne_zero u.op).symm
    rw [h]
    refine historyFits_extend [.delay] hf (hs ▸ rfl) (by simp) rfl rfl rfl rfl fun evs he => ?_
    rw [requestEvents_delaying_second hs hsecond] at he
    rw [requestEvents_reading rfl, he]; rfl
  · rw [h]
    refine historyFits_extend [.delay] hf (hs ▸ rfl) (by simp) rfl rfl rfl rfl fun evs he => ?_
    by_cases hw : u.wrLeft = writesFor u.op
    · rw [requestEvents_delaying_first hs hw] at he
      exact Iff.mpr (requestEvents_writing_first rfl hw) (by rw [he, List.nil_append])
    · rw [requestEvents_delaying_second hs hw] at he
      exact Iff.mpr (requestEvents_writing_second rfl hw) (he ▸ rfl)
  · rwa [h]

theorem historyFits_readIssue {u : State} (hf : HistoryFits u) (hs : u.st = .reading) :
    HistoryFits ((u.setRx []).issue (.read u.cfg.respLen)) := by
  refine historyFits_extend [] hf (hs ▸ rfl) (by simp [hs]) rfl rfl (acceptedAvail_of_st_ne_failed (by simp [hs]))
    (by simp) fun evs he => ?_
  rw [requestEvents_reading hs] at he
  rw [requestEvents_reading (by simpa using hs), he, List.append_nil]; rfl

/-- WRITE answer (R97): the write recorded is the built frame's, and what follows depends on which write it was. -/
theorem historyFits_writeAnswer {u t : State} (hi : Inv u) (hf : HistoryFits u) (hs : u.st = .writing)
    (h : writeAnswer u = .next t) : HistoryFits t := by
  obtain ⟨f, hframe, hcases⟩ := writeAnswer_cases u t h
  obtain rfl : f = u.builtFrame :=
    Option.some.inj (hframe.symm.trans (hi.frameBytes (by rw [hs]; rfl)))
  have hbusy : quiescent u.st = false := by rw [hs]; rfl
  rcases hcases with ⟨hc, rfl⟩ | ⟨_, _, hgo, rfl⟩ | ⟨_, hlast, _, hset, rfl⟩
  case inl =>
    refine historyFits_extend [_, _] hf hbusy (by simp) rfl rfl (acceptedAvail_of_resKind (by simp))
      (List.append_assoc _ _ _) fun evs he => ?_
    refine (requestEvents_writeFailed rfl rfl).2 ⟨hc, ?_⟩
    by_cases hw : u.wrLeft = writesFor u.op
    · rw [requestEvents_writing_first hs hw] at he
      exact .inl (he ▸ rfl)
    · rw [requestEvents_writing_second hs hw] at he
      exact .inr ⟨(second_write_is_set hi hs hw).1, he ▸ rfl⟩
  case inr.inl =>
    refine historyFits_extend [_] hf hbusy (by simp) rfl rfl rfl rfl fun evs he => ?_
    by_cases hw : u.wrLeft = writesFor u.op
    · have hleft : u.wrLeft - 1 ≠ writesFor u.op := hw ▸ writesFor_sub_one_ne u.op
      rw [requestEvents_writing_first hs hw] at he
      exact (requestEvents_delaying_second rfl hleft).2 (he ▸ rfl)
    · obtain ⟨hset, hone⟩ := second_write_is_set hi hs hw
      simp [hset, hone] at hgo
  case inr.inr =>
    refine historyFits_extend [_, _] hf hbusy (by simp) rfl rfl rfl (List.append_assoc _ _ _) fun evs he => ?_
    rw [requestEvents_writing_second hs (last_write_is_second hset hlast)] at he
    exact Iff.mpr (requestEvents_done_set rfl hset) (he ▸ rfl)

/-- READ answer (R99): the buffer was zero-filled at the issue, so it now holds the bytes recorded. -/
theorem historyFits_readAnswer {u t : State} (hi : Inv u) (hf : HistoryFits u) (hs : u.st = .reading)
    (hp : u.pend = true) (h : readAnswer u = .next t) : HistoryFits t := by
  obtain ⟨hget, _⟩ := hi.readingIsGet (.inl hs)
  obtain ⟨_, hrx⟩ := hi.readInFlight hp hs
  obtain ⟨hlen, hcases⟩ := readAnswer_cases u t h
  have hbusy : quiescent u.st = false := by rw [hs]; rfl
  rcases hcases with ⟨hc, rfl⟩ | ⟨_, rfl⟩
  · refine historyFits_extend [_, _] hf hbusy (by simp) rfl rfl (acceptedAvail_of_resKind (by simp))
      (List.append_assoc _ _ _) fun evs he => ?_
    rw [requestEvents_reading hs] at he
    exact (requestEvents_readFailed rfl rfl).2 ⟨hc, hget, u.xrData, he ▸ rfl⟩
  · refine historyFits_extend [_] hf hbusy (by simp) rfl rfl rfl rfl fun evs he => ?_
    rw [requestEvents_reading hs] at he
    exact (requestEvents_decoding rfl).2 ⟨u.xrData, he ▸ rfl, hlen, by simp [hrx]⟩

/-- DECODE (R100): the bytes it reads from the buffer are those of the read recorded. -/
theorem historyFits_decodeStep {u : State} (hi : Inv u) (hf : HistoryFits u) (hs : u.st = .decoding) :
    HistoryFits u.decodeStep := by
  obtain ⟨hget, _⟩ := hi.readingIsGet (.inr hs)
  have hbusy : quiescent u.st = false := by rw [hs]; rfl
  rcases decodeStep_cases u with ⟨hsrc, h⟩ | ⟨hsrc, h⟩
  · rw [h]
    refine historyFits_extend [_] hf hbusy (by simp) rfl rfl rfl rfl fun evs he => ?_
    obtain ⟨data, rfl, _, hrx⟩ := (requestEvents_decoding hs).1 he
    rw [hrx, memory_read_filled] at hsrc
    refine Iff.mpr (requestEvents_done_get rfl hget) ⟨data, rfl, hsrc, ?_⟩
    simp [State.curLo, hrx, memory_read_filled, delivered]
  · rw [h]
    refine historyFits_extend [_] hf hbusy (by simp) rfl rfl (acceptedAvail_of_resKind (by simp)) rfl fun evs he => ?_
    obtain ⟨data, rfl, _, hrx⟩ := (requestEvents_decoding hs).1 he
    rw [hrx, memory_read_filled] at hsrc
    exact (requestEvents_invalidResponse rfl rfl).2 ⟨hget, data, rfl, hsrc⟩

/-! ## Each kind of step keeps the history -/

/-- The input ports and the list of moves are no part of the invariant. -/
theorem inv_drive {s : State} (hi : Inv s) (m : Move) : Inv (s.drive m) := by
  cases hi
  constructor <;> assumption

theorem historyFits_microOperation {u t : State} (hi : Inv u) (hf : HistoryFits u) (hh : u.turn ≠ .host)
    (h : exec (instrOfSt u.st) u = .next t) : HistoryFits t := by
  rcases sequencer_cases u t hh h with rfl | ⟨hs, _, rfl⟩ | ⟨_, _, rfl⟩ | ⟨hs, _, rfl⟩ | ⟨_, _, _, _, _, rfl⟩ |
    ⟨hs, _, _, hw⟩ | ⟨hs, _, _, rfl⟩ | ⟨hs, _, hp, hr⟩ | ⟨hs, _, rfl⟩
  · exact hf
  · exact historyFits_build hf hs
  · exact historyFits_countTick hf
  · exact historyFits_expire hf hs
  · exact hf
  · exact historyFits_writeAnswer hi hf hs hw
  · exact historyFits_readIssue hf hs
  · exact historyFits_readAnswer hi hf hs hp hr
  · exact historyFits_decodeStep hi hf hs

/-- ACCEPT (R91, R92) begins a request; what came before it no longer matters. -/
theorem historyFits_accept {u : State} (hf : HistoryFits u) (op : CmdOp) (v : Raw) : HistoryFits (u.accept op v) := by
  rcases accept_cases u op v with ⟨_, _, h⟩ | ⟨_, _, h⟩ | ⟨_, h⟩
  · rw [h]
    exact (historyFits_iff (by simp)).2 ⟨u.hist, [], rfl, (requestEvents_building rfl).2 rfl⟩
  · rw [h]
    refine (historyFits_iff (by simp)).2 ⟨u.hist, [_], ?_, (requestEvents_connectionUnavailable rfl rfl).2 rfl⟩
    rw [acceptedAvail_connectionUnavailable rfl rfl]
    exact List.append_assoc _ _ _
  · rwa [h]

/-- Settles O47: reset empties the history, an offer begins a request or is ignored, and every other move runs one
micro-operation. -/
theorem everyStepKeepsTheHistory : Obligations.EveryStepKeepsTheHistory := by
  intro s t hi hf h
  rcases step_cases s t hi.noDirect h with ⟨_, rfl⟩ | ⟨w, a, _, rfl⟩ | ⟨hm, _, hx⟩
  · exact (historyFits_idle_iff rfl).2 rfl
  · exact historyFits_accept (u := s.drive (.offer w a)) hf _ _
  · exact historyFits_microOperation (u := s.drive s.nextMove) (inv_drive hi _) hf (drive_turn_ne_host s _ hm) hx

/-! ## The history only grows -/

/-- The build's parameters stay, and the history is kept and perhaps continued (R12). -/
structure Continues (s t : State) : Prop where
  cfg : t.cfg = s.cfg
  hist : s.hist <+: t.hist

theorem Continues.refl (s : State) : Continues s s := ⟨rfl, List.prefix_refl _⟩

theorem Continues.trans {s t u : State} (h : Continues s t) (h' : Continues t u) : Continues s u :=
  ⟨h'.cfg.trans h.cfg, h.hist.trans h'.hist⟩

/-- Of an outcome that is known: its next state is the one it names. -/
theorem Continues.of_next {s t u : State} (hn : (.next u : Result) = .next t) (h : Continues s u) : Continues s t :=
  Host.Outcome.next.inj hn ▸ h

/-- Ending a request adds its result to a history already continued (R107). -/
theorem Continues.endRequest {s u : State} {k : ResKind} {v : Option Byte} {c : Option Code} {f : St}
    (h : Continues s u) : Continues s (u.endRequest k v c f) :=
  h.trans ⟨rfl, List.prefix_append _ _⟩

theorem continues_accept (s : State) (op : CmdOp) (v : Raw) : Continues s (s.accept op v) := by
  rcases accept_cases s op v with ⟨_, _, h⟩ | ⟨_, _, h⟩ | ⟨_, h⟩ <;> rw [h]
  · exact ⟨rfl, List.prefix_append _ _⟩
  · exact .endRequest ⟨rfl, List.prefix_append _ _⟩
  · exact .refl s

theorem continues_quiesce (s : State) : Continues s s.quiesce := by
  rcases quiesce_cases s with ⟨_, h⟩ | ⟨_, h⟩ <;> rw [h]
  · exact continues_accept _ _ _
  · exact .refl s

theorem continues_build (s : State) : Continues s s.build := ⟨rfl, List.prefix_refl _⟩

theorem continues_countTick (s : State) : Continues s s.countTick := by
  rcases countTick_cases s with ⟨_, h⟩ | ⟨_, h, _⟩ <;> rw [h]
  · exact .refl s
  · exact ⟨rfl, List.prefix_refl _⟩

theorem continues_expire (s : State) : Continues s s.expire := by
  rcases expire_cases s with ⟨_, _, h⟩ | ⟨_, _, h⟩ | ⟨_, h⟩ <;> rw [h]
  · exact ⟨rfl, List.prefix_append _ _⟩
  · exact ⟨rfl, List.prefix_append _ _⟩
  · exact .refl s

theorem continues_setRx (s : State) (m : Memory) : Continues s (s.setRx m) := ⟨rfl, List.prefix_refl _⟩

theorem continues_decodeStep (s : State) : Continues s s.decodeStep := by
  rcases decodeStep_cases s with ⟨_, h⟩ | ⟨_, h⟩ <;> rw [h] <;> exact .endRequest (.refl s)

theorem continues_deliver {s t : State} {bytes : List Byte} (h : s.deliver bytes = .next t) : Continues s t := by
  rcases deliver_cases s bytes with ⟨_, hd⟩ | ⟨_, hd⟩
  · exact .of_next (hd.symm.trans h) ((continues_setRx _ _).trans (continues_decodeStep _))
  · simp [hd] at h

theorem continues_writeIssue {s t : State} (h : writeIssue s = .next t) : Continues s t := by
  unfold writeIssue at h
  split at h
  · exact .of_next h ⟨rfl, List.prefix_refl _⟩
  · cases h

theorem continues_writeAnswer {s t : State} (h : writeAnswer s = .next t) : Continues s t := by
  obtain ⟨f, _, ⟨_, rfl⟩ | ⟨_, _, _, rfl⟩ | ⟨_, _, _, _, rfl⟩⟩ := writeAnswer_cases s t h
  · exact .endRequest ⟨rfl, List.prefix_append _ _⟩
  · exact ⟨rfl, List.prefix_append _ _⟩
  · exact .endRequest ⟨rfl, List.prefix_append _ _⟩

theorem continues_readAnswer {s t : State} (h : readAnswer s = .next t) : Continues s t := by
  obtain ⟨_, ⟨_, rfl⟩ | ⟨_, rfl⟩⟩ := readAnswer_cases s t h
  · exact .endRequest ⟨rfl, List.prefix_append _ _⟩
  · exact ⟨rfl, List.prefix_append _ _⟩

theorem continues_execStBuilding {s t : State} (h : execStBuilding s = .next t) : Continues s t := by
  unfold execStBuilding at h
  cases hturn : s.turn <;> simp only [hturn] at h
  case engine => exact .of_next h (continues_build s)
  all_goals exact .of_next h (.refl s)

theorem continues_execStDelaying {s t : State} (h : execStDelaying s = .next t) : Continues s t := by
  unfold execStDelaying at h
  cases hturn : s.turn <;> simp only [hturn] at h
  case engine => exact .of_next h (continues_expire s)
  case tick => exact .of_next h (continues_countTick s)
  all_goals exact .of_next h (.refl s)

theorem continues_execStWriting {s t : State} (h : execStWriting s = .next t) : Continues s t := by
  unfold execStWriting at h
  cases hturn : s.turn <;> simp only [hturn] at h
  case engine =>
    split at h
    · exact .of_next h (.refl s)
    · exact continues_writeIssue h
  case writeDone =>
    split at h
    · exact continues_writeAnswer h
    · exact .of_next h (.refl s)
  all_goals exact .of_next h (.refl s)

theorem continues_execStReading {s t : State} (h : execStReading s = .next t) : Continues s t := by
  unfold execStReading at h
  cases hturn : s.turn <;> simp only [hturn] at h
  case engine =>
    split at h
    · exact .of_next h (.refl s)
    · exact .of_next h ⟨rfl, List.prefix_refl _⟩
  case readDone =>
    split at h
    · exact continues_readAnswer h
    · exact .of_next h (.refl s)
  all_goals exact .of_next h (.refl s)

theorem continues_execStDecoding {s t : State} (h : execStDecoding s = .next t) : Continues s t := by
  unfold execStDecoding at h
  cases hturn : s.turn <;> simp only [hturn] at h
  case engine => exact .of_next h (continues_decodeStep s)
  all_goals exact .of_next h (.refl s)

/-- Every row of the opcode table, in any state, adds to the history at most. -/
theorem continues_exec {i : Instr} {s t : State} (h : exec i s = .next t) : Continues s t := by
  cases i with
  | getFrame | setFrame | resNone => exact .of_next h ⟨rfl, List.prefix_refl _⟩
  | get | set => exact .of_next h (continues_accept _ _ _)
  | vcpReply => exact continues_deliver h
  | stIdle | stDone | stFailed => exact .of_next h (continues_quiesce s)
  | stBuilding => exact continues_execStBuilding h
  | stDelaying => exact continues_execStDelaying h
  | stWriting => exact continues_execStWriting h
  | stReading => exact continues_execStReading h
  | stDecoding => exact continues_execStDecoding h
  | resValue | resOk | resConnectionUnavailable | resWriteFailed | resReadFailed | resInvalidResponse =>
    exact .of_next h (Continues.refl s).endRequest

/-- What a step with a directly driven word can do: run the word's row, decode a response, or consume a word that no block
reads (log 7). -/
theorem step_direct_cases {s t : State} {w : Encoded} (hd : s.direct = some w) (h : step s = .next t) :
    (∃ i, decode w = .ok i ∧ exec i { s with direct := none, turn := .engine } = .next t) ∨
    (∃ bytes, w = .resp bytes ∧ { s with direct := none, turn := .engine }.deliver bytes = .next t) ∨
    t = { s with direct := none, turn := .engine } := by
  simp only [step, fetch_direct s w hd, fetchFrom] at h
  cases hw : decode w with
  | ok i => exact .inl ⟨i, rfl, by simpa only [hw] using h⟩
  | error e =>
    simp only [hw] at h
    cases w with
    | resp bytes => exact .inr (.inl ⟨bytes, rfl, h⟩)
    | res => cases h
    | req | cmd | state => exact .inr (.inr (Host.Outcome.next.inj h).symm)

theorem continues_step_direct {s t : State} {w : Encoded} (hd : s.direct = some w) (h : step s = .next t) :
    Continues s t := by
  have hconsume : Continues s { s with direct := none, turn := .engine } := ⟨rfl, List.prefix_refl _⟩
  rcases step_direct_cases hd h with ⟨i, _, hx⟩ | ⟨bytes, _, hx⟩ | rfl
  · exact hconsume.trans (continues_exec hx)
  · exact hconsume.trans (continues_deliver hx)
  · exact hconsume

theorem continues_step_move {s t : State} (hd : s.direct = none) (h : step s = .next t) :
    t.cfg = s.cfg ∧ (s.nextMove = .rst ∨ s.hist <+: t.hist) := by
  have hdrive (m : Move) : Continues s (s.drive m) := ⟨rfl, List.prefix_refl _⟩
  rcases step_cases s t hd h with ⟨hr, rfl⟩ | ⟨w, a, _, rfl⟩ | ⟨_, _, hx⟩
  · exact ⟨rfl, .inl hr⟩
  · obtain ⟨hcfg, hhist⟩ := (hdrive (.offer w a)).trans (continues_accept _ _ _)
    exact ⟨hcfg, .inr hhist⟩
  · obtain ⟨hcfg, hhist⟩ := (hdrive _).trans (continues_exec hx)
    exact ⟨hcfg, .inr hhist⟩

/-- Settles O48: every row, every offer and every word driven directly continues the history; only reset clears it. -/
theorem historyOnlyGrows : Obligations.HistoryOnlyGrows := by
  intro s t h
  cases hd : s.direct with
  | none =>
    obtain ⟨hcfg, hhist⟩ := continues_step_move hd h
    exact ⟨hcfg, fun _ => hhist, fun hne => absurd rfl hne⟩
  | some w =>
    obtain ⟨hcfg, hhist⟩ := continues_step_direct hd h
    exact ⟨hcfg, fun hn => absurd hn (Option.some_ne_none w), fun _ => hhist⟩

/-! ## What a step runs and what its move drives -/

/-- A step that fetches a row's word runs that row. -/
theorem step_of_fetch {s t : State} {i : Instr} (h : fetch s = .run i t) : step s = exec i t := by
  rw [step, h]

/-- Settles O1: a move's word is fetched in the state it has driven, a directly driven word in the state that has consumed
it. -/
theorem stepRunsTheDecodedInstruction : Obligations.StepRunsTheDecodedInstruction := by
  refine ⟨fun s i hd hr hw => ⟨?_, drive_sched s _⟩, fetchWord_offer, fun s m ho _ => ?_, fun s w i hd hw => ?_⟩
  · exact step_of_fetch ((fetch_move s hd hr).trans (fetchFrom_ok _ _ i hw))
  · exact fetchWord_state _ (drive_turn_ne_host s m ho)
  · exact step_of_fetch ((fetch_direct s w hd).trans (fetchFrom_ok w _ i hw))

/-- Settles O2: a move that does not drive a port leaves it at the level it held. -/
theorem movesDriveTheirPorts : Obligations.MovesDriveTheirPorts :=
  fun _ => ⟨rfl, rfl, fun _ _ => rfl, fun _ => rfl, fun _ _ => rfl⟩

/-! ## The width of the delay counter -/

/-- A width that holds `DELAY_TICKS` is no smaller than `DLY_W`. -/
theorem dlyW_le_of_delayTicks_lt {cfg : Config} {w : Nat} (h : cfg.delayTicks < 2 ^ w) : cfg.dlyW ≤ w :=
  (Nat.log2_lt (Nat.succ_ne_zero _)).2 h

/-- Settles O56: one more bit than the logarithm holds the number, and the logarithm does not. -/
theorem delayRegisterIsTheSmallest : Obligations.DelayRegisterIsTheSmallest :=
  fun cfg => ⟨dlyLoad_toNat cfg, Nat.lt_log2_self, fun _ => dlyW_le_of_delayTicks_lt⟩

end Sys2Proof.Scope

/-! PROOFS. The statements of 10_state.md: the registers and the outputs after reset and in every state (R31, R32, R37, R38), the
stability of the frame and of the result kind (R25, R31, R53), the delay counter (R27, R94), the frame buffer (R25), and where
the engine waits (R28, R105, R107). -/

namespace Sys2Proof.Registers

open Sys2Proof.Machine Sys2Proof.Laws Sys2Proof.Scope

/-! ## What each state's row does at the engine's own turn -/

section EngineTurn

variable {u : State}

theorem quiesce_of_not_host (h : u.turn ≠ .host) : u.quiesce = u := by
  rcases quiesce_cases u with ⟨hh, _⟩ | ⟨_, hq⟩
  · exact absurd hh h
  · exact hq

theorem execStBuilding_engine (h : u.turn = .engine) : execStBuilding u = .next u.build := by
  simp only [execStBuilding, h]

theorem execStDelaying_engine (h : u.turn = .engine) : execStDelaying u = .next u.expire := by
  simp only [execStDelaying, h]

theorem execStDelaying_tick (h : u.turn = .tick) : execStDelaying u = .next u.countTick := by
  simp only [execStDelaying, h]

/-- A delay not yet over ignores every event but a tick. -/
theorem execStDelaying_ignores (hz : u.dly ≠ 0) (h : u.turn ≠ .tick) : execStDelaying u = .next u := by
  cases ht : u.turn with
  | engine => rw [execStDelaying_engine ht, State.expire, if_neg hz]
  | tick => exact absurd ht h
  | host | writeDone | readDone => simp only [execStDelaying, ht]

theorem execStWriting_engine_pending (h : u.turn = .engine) (hp : u.pend = true) : execStWriting u = .next u := by
  simp only [execStWriting, h, if_pos hp]

theorem execStWriting_engine_issue {f : List Byte} (h : u.turn = .engine) (hp : u.pend = false)
    (hf : u.txFrame = some f) : execStWriting u = .next (u.issue (.write f)) := by
  simp only [execStWriting, h, hp, Bool.false_eq_true, if_false, writeIssue, hf]

theorem execStReading_engine_pending (h : u.turn = .engine) (hp : u.pend = true) : execStReading u = .next u := by
  simp only [execStReading, h, if_pos hp]

theorem execStReading_engine_issue (h : u.turn = .engine) (hp : u.pend = false) :
    execStReading u = .next ((u.setRx []).issue (.read u.cfg.respLen)) := by
  simp only [execStReading, h, hp, Bool.false_eq_true, if_false, readIssue]

theorem execStDecoding_engine (h : u.turn = .engine) : execStDecoding u = .next u.decodeStep := by
  simp only [execStDecoding, h]

end EngineTurn

/-! ## Where the engine waits (R28, R105, R107, R135(b)) -/

/-- A row that answers a state with another value in some field has not left the state alone. -/
theorem next_ne_of_field {α : Type} (field : State → α) {t u : State} (h : field t ≠ field u) :
    (.next t : Result) ≠ .next u :=
  fun he => h (congrArg field (Host.Outcome.next.inj he))

theorem expire_st_of_zero {u : State} (h : u.dly = 0) (hs : u.st = .delaying) : u.expire.st ≠ u.st := by
  rcases expire_cases u with ⟨_, _, he⟩ | ⟨_, _, he⟩ | ⟨hne, _⟩
  · simp [he, hs]
  · simp [he, hs]
  · exact absurd h hne

theorem expire_of_ne_zero {u : State} (h : u.dly ≠ 0) : u.expire = u := if_neg h

theorem decodeStep_st {u : State} (hs : u.st = .decoding) : u.decodeStep.st ≠ u.st := by
  rcases decodeStep_cases u with ⟨_, he⟩ | ⟨_, he⟩ <;> simp [he, hs]

/-- The engine's own turn in each state: it waits in the quiescent ones, in a delay not yet over and for the transport, and
otherwise changes `st` or `pend`. -/
theorem engine_turn_stuck_iff {u : State} (hi : Inv u) (ht : u.turn = .engine) :
    exec (instrOfSt u.st) u = .next u ↔ u.waits = true ∨ u.cmdReady = true := by
  have hq : u.quiesce = u := quiesce_of_not_host (by simp [ht])
  cases hs : u.st with
  | idle | done | failed =>
    simp [instrOfSt, exec, execStIdle, execStDone, execStFailed, hq, State.cmdReady, hs, quiescent]
  | building =>
    have hmoves : exec .stBuilding u ≠ .next u := by
      rw [exec, execStBuilding_engine ht]
      exact next_ne_of_field State.st (by simp [build_eq, hs])
    simp [instrOfSt, hmoves, State.waits, State.cmdReady, hs, quiescent]
  | delaying =>
    have hstuck : exec .stDelaying u = .next u ↔ u.dly ≠ 0 := by
      rw [exec, execStDelaying_engine ht]
      refine ⟨fun he hz => ?_, fun hz => by rw [expire_of_ne_zero hz]⟩
      exact next_ne_of_field State.st (expire_st_of_zero hz hs) he
    simp [instrOfSt, hstuck, State.waits, State.cmdReady, hs, quiescent]
  | writing =>
    have hstuck : exec .stWriting u = .next u ↔ u.pend = true := by
      cases hp : u.pend with
      | true => simp [exec, execStWriting_engine_pending ht hp]
      | false =>
        rw [exec, execStWriting_engine_issue ht hp (hi.frameBytes (by rw [hs]; rfl))]
        simpa using next_ne_of_field State.pend (by simp [hp])
    simp [instrOfSt, hstuck, State.waits, State.cmdReady, hs, quiescent]
  | reading =>
    have hstuck : exec .stReading u = .next u ↔ u.pend = true := by
      cases hp : u.pend with
      | true => simp [exec, execStReading_engine_pending ht hp]
      | false =>
        rw [exec, execStReading_engine_issue ht hp]
        simpa using next_ne_of_field State.pend (by simp [hp])
    simp [instrOfSt, hstuck, State.waits, State.cmdReady, hs, quiescent]
  | decoding =>
    have hmoves : exec .stDecoding u ≠ .next u := by
      rw [exec, execStDecoding_engine ht]
      exact next_ne_of_field State.st (decodeStep_st hs)
    simp [instrOfSt, hmoves, State.waits, State.cmdReady, hs, quiescent]

/-- Settles O44: the engine's turn runs the row of `st`, and driving it changes neither `st` nor what the engine waits for. -/
theorem engineIsStuckExactlyWhereItWaits : Obligations.EngineIsStuckExactlyWhereItWaits := by
  intro s hi hm
  have hstep : step s = exec (instrOfSt s.st) (s.drive .engine) := by
    rcases step_move s hi.noDirect (by simp [hm]) with ⟨w, a, ho, _⟩ | ⟨_, hs⟩
    · simp [hm] at ho
    · rwa [hm] at hs
  rw [hstep]
  exact engine_turn_stuck_iff (u := s.drive .engine) (inv_drive hi _) rfl

/-! ## What a step keeps during a request (R25, R31, R53) -/

/-- The latched command, the luminance and the frame are the same. -/
structure SameFrame (s t : State) : Prop where
  op : t.op = s.op
  raw : t.raw = s.raw
  lum : t.lum = s.lum
  txbuf : t.txbuf = s.txbuf
  txlen : t.txlen = s.txlen

theorem SameFrame.refl (s : State) : SameFrame s s := ⟨rfl, rfl, rfl, rfl, rfl⟩

theorem sameFrame_countTick (u : State) : SameFrame u u.countTick := by
  rcases countTick_cases u with ⟨_, h⟩ | ⟨_, h, _⟩ <;> rw [h] <;> exact ⟨rfl, rfl, rfl, rfl, rfl⟩

theorem sameFrame_expire (u : State) : SameFrame u u.expire := by
  rcases expire_cases u with ⟨_, _, h⟩ | ⟨_, _, h⟩ | ⟨_, h⟩ <;> rw [h] <;> exact ⟨rfl, rfl, rfl, rfl, rfl⟩

theorem sameFrame_writeAnswer {u t : State} (h : writeAnswer u = .next t) : SameFrame u t := by
  obtain ⟨f, _, ⟨_, rfl⟩ | ⟨_, _, _, rfl⟩ | ⟨_, _, _, _, rfl⟩⟩ := writeAnswer_cases u t h <;>
    exact ⟨rfl, rfl, rfl, rfl, rfl⟩

theorem sameFrame_readAnswer {u t : State} (h : readAnswer u = .next t) : SameFrame u t := by
  obtain ⟨_, ⟨_, rfl⟩ | ⟨_, rfl⟩⟩ := readAnswer_cases u t h <;> exact ⟨rfl, rfl, rfl, rfl, rfl⟩

theorem sameFrame_decodeStep (u : State) : SameFrame u u.decodeStep := by
  rcases decodeStep_cases u with ⟨_, h⟩ | ⟨_, h⟩ <;> rw [h] <;> exact ⟨rfl, rfl, rfl, rfl, rfl⟩

/-- Of the micro-operations only BUILD writes the luminance or the frame. -/
theorem sameFrame_microOperation {u t : State} (hs : u.st ≠ .building) (hh : u.turn ≠ .host)
    (h : exec (instrOfSt u.st) u = .next t) : SameFrame u t := by
  rcases sequencer_cases u t hh h with rfl | ⟨hb, _, _⟩ | ⟨_, _, rfl⟩ | ⟨_, _, rfl⟩ | ⟨_, _, _, _, _, rfl⟩ |
    ⟨_, _, _, hw⟩ | ⟨_, _, _, rfl⟩ | ⟨_, _, _, hr⟩ | ⟨_, _, rfl⟩
  · exact .refl _
  · exact absurd hb hs
  · exact sameFrame_countTick u
  · exact sameFrame_expire u
  · exact ⟨rfl, rfl, rfl, rfl, rfl⟩
  · exact sameFrame_writeAnswer hw
  · exact ⟨rfl, rfl, rfl, rfl, rfl⟩
  · exact sameFrame_readAnswer hr
  · exact sameFrame_decodeStep u

/-- A busy engine ignores an offer (R91). -/
theorem accept_of_busy {u : State} (h : u.cmdReady = false) (op : CmdOp) (v : Raw) : u.accept op v = u := by
  rcases accept_cases u op v with ⟨hr, _⟩ | ⟨hr, _⟩ | ⟨_, ha⟩
  · simp [h] at hr
  · simp [h] at hr
  · exact ha

theorem cmdReady_of_framed {s : State} (h : St.framed s.st = true) : s.cmdReady = false := by
  unfold State.cmdReady
  cases hs : s.st <;> simp_all [St.framed, quiescent]

/-- Settles O49: in a framed state the engine is busy and past BUILD, so that an offer is ignored and no micro-operation writes
the frame. -/
theorem frameIsStableDuringARequest : Obligations.FrameIsStableDuringARequest := by
  intro s t hd hr hf h
  rcases step_cases s t hd h with ⟨hrst, _⟩ | ⟨w, a, _, rfl⟩ | ⟨hm, _, hx⟩
  · exact absurd hrst hr
  · rw [accept_of_busy (u := s.drive (.offer w a)) (cmdReady_of_framed hf)]
    exact ⟨rfl, rfl, rfl, rfl, rfl⟩
  · have hbuilt : s.st ≠ .building := fun hb => by simp [hb, St.framed] at hf
    obtain ⟨hop, hraw, hlum, htxbuf, htxlen⟩ :=
      sameFrame_microOperation (u := s.drive s.nextMove) hbuilt (drive_turn_ne_host s _ hm) hx
    exact ⟨hop, hraw, hlum, htxbuf, htxlen⟩

/-! ## Where the result kind is written (R31, R107) -/

theorem writeAnswer_writes_kind_at_end {u t : State} (h : writeAnswer u = .next t) (hk : t.resKind ≠ u.resKind) :
    ended t.st = true := by
  obtain ⟨f, _, ⟨_, rfl⟩ | ⟨_, _, _, rfl⟩ | ⟨_, _, _, _, rfl⟩⟩ := writeAnswer_cases u t h
  · rfl
  · exact absurd rfl hk
  · rfl

theorem readAnswer_writes_kind_at_end {u t : State} (h : readAnswer u = .next t) (hk : t.resKind ≠ u.resKind) :
    ended t.st = true := by
  obtain ⟨_, ⟨_, rfl⟩ | ⟨_, rfl⟩⟩ := readAnswer_cases u t h
  · rfl
  · exact absurd rfl hk

theorem ended_decodeStep (u : State) : ended u.decodeStep.st = true := by
  rcases decodeStep_cases u with ⟨_, h⟩ | ⟨_, h⟩ <;> rw [h] <;> rfl

theorem countTick_resKind (u : State) : u.countTick.resKind = u.resKind := by
  rcases countTick_cases u with ⟨_, h⟩ | ⟨_, h, _⟩ <;> rw [h]

theorem expire_resKind (u : State) : u.expire.resKind = u.resKind := by
  rcases expire_cases u with ⟨_, _, h⟩ | ⟨_, _, h⟩ | ⟨_, h⟩ <;> rw [h] <;> rfl

/-- A micro-operation that writes the result kind ends the request of a busy engine. -/
theorem microOperation_writes_kind_at_end {u t : State} (hh : u.turn ≠ .host) (h : exec (instrOfSt u.st) u = .next t)
    (hk : t.resKind ≠ u.resKind) : quiescent u.st = false ∧ ended t.st = true := by
  rcases sequencer_cases u t hh h with rfl | ⟨_, _, rfl⟩ | ⟨_, _, rfl⟩ | ⟨_, _, rfl⟩ | ⟨_, _, _, _, _, rfl⟩ |
    ⟨hs, _, _, hw⟩ | ⟨_, _, _, rfl⟩ | ⟨hs, _, _, hr⟩ | ⟨hs, _, rfl⟩
  · exact absurd rfl hk
  · exact absurd rfl hk
  · exact absurd (countTick_resKind u) hk
  · exact absurd (expire_resKind u) hk
  · exact absurd rfl hk
  · exact ⟨by rw [hs]; rfl, writeAnswer_writes_kind_at_end hw hk⟩
  · exact absurd rfl hk
  · exact ⟨by rw [hs]; rfl, readAnswer_writes_kind_at_end hr hk⟩
  · exact ⟨by rw [hs]; rfl, ended_decodeStep u⟩

/-- Settles O50: an offer writes the kind of a ready engine only, and a micro-operation by ending the request. -/
theorem resultKindIsWrittenAtTheEnds : Obligations.ResultKindIsWrittenAtTheEnds := by
  intro s t hd hr h hk
  rcases step_cases s t hd h with ⟨hrst, _⟩ | ⟨w, a, hm, rfl⟩ | ⟨hm, _, hx⟩
  · exact absurd hrst hr
  · refine .inl ⟨?_, w, a, hm⟩
    by_contra hbusy
    rw [accept_of_busy (u := s.drive (.offer w a)) (Bool.eq_false_iff.2 hbusy)] at hk
    exact hk rfl
  · obtain ⟨hbusy, hend⟩ :=
      microOperation_writes_kind_at_end (u := s.drive s.nextMove) (drive_turn_ne_host s _ hm) hx hk
    exact .inr ⟨congrArg (!·) hbusy, hend⟩

/-! ## The delay counter (R27, R94, R145) -/

/-- From `s` to `t` a delay went on: `k` ticks were counted, and nothing was recorded. -/
structure TicksCounted (k : Nat) (s t : State) : Prop where
  direct : t.direct = none
  st : t.st = .delaying
  dly : t.dly.toNat = s.dly.toNat - k
  hist : t.hist = s.hist

theorem TicksCounted.trans {j k : Nat} {s t u : State} (h : TicksCounted j s t) (h' : TicksCounted k t u) :
    TicksCounted (j + k) s u :=
  ⟨h'.direct, h'.st, by rw [h'.dly, h.dly, Nat.sub_sub], h'.hist.trans h.hist⟩

theorem count_tick_take_one (s : State) :
    (s.sched.take 1).count .tick = if s.nextMove = .tick then 1 else 0 := by
  unfold State.nextMove
  cases s.sched with
  | nil => rfl
  | cons m ms => by_cases hm : m = .tick <;> simp [hm]

theorem move_turn_ne_tick {m : Move} (h : m ≠ .tick) : m.turn ≠ .tick := by
  cases m <;> simp_all [Move.turn]

/-- A delay counts a tick whenever one comes (R94). -/
theorem step_delaying_tick {s : State} (hd : s.direct = none) (hs : s.st = .delaying) (hm : s.nextMove = .tick) :
    step s = .next (s.drive .tick).countTick := by
  rcases step_move s hd (by simp [hm]) with ⟨w, a, ho, _⟩ | ⟨_, h⟩
  · simp [hm] at ho
  · rw [h, hs, hm]
    exact execStDelaying_tick (u := s.drive .tick) rfl

/-- A delay not yet over ignores every move but a tick and a reset (R91, R95, R148(d)). -/
theorem step_delaying_ignores {s : State} (hd : s.direct = none) (hs : s.st = .delaying) (hr : s.nextMove ≠ .rst)
    (hz : s.dly ≠ 0) (hm : s.nextMove ≠ .tick) : step s = .next (s.drive s.nextMove) := by
  rcases step_move s hd hr with ⟨w, a, ho, h⟩ | ⟨_, h⟩
  · rw [h, ho, accept_of_busy (u := s.drive (.offer w a)) (by simp [State.cmdReady, hs, quiescent])]
  · rw [h, hs]
    exact execStDelaying_ignores hz (move_turn_ne_tick hm)

/-- One step of a delay not yet over. -/
theorem step_delaying {s : State} (hd : s.direct = none) (hs : s.st = .delaying) (hr : s.nextMove ≠ .rst)
    (hz : s.dly ≠ 0) :
    ∃ t, step s = .next t ∧ t.sched = s.sched.tail ∧ TicksCounted ((s.sched.take 1).count .tick) s t := by
  rw [count_tick_take_one]
  by_cases hm : s.nextMove = .tick
  · rcases countTick_cases (s.drive .tick) with ⟨h0, _⟩ | ⟨_, ht, hsub⟩
    · exact absurd h0 hz
    · exact ⟨_, (step_delaying_tick hd hs hm).trans (congrArg _ ht), rfl, hd, hs, by rwa [if_pos hm], rfl⟩
  · exact ⟨_, step_delaying_ignores hd hs hr hz hm, rfl, hd, hs, by simp [hm], rfl⟩

theorem mem_take_succ_of_mem_tail {ms : List Move} {n : Nat} {m : Move} (h : m ∈ ms.tail.take n) :
    m ∈ ms.take (n + 1) := by
  cases ms with
  | nil => simp at h
  | cons x xs => exact List.mem_cons_of_mem x h

/-- The first `n + 1` moves are the first one and the first `n` of those that stay in the list. -/
theorem count_tick_take_succ (ms : List Move) (n : Nat) :
    (ms.take (n + 1)).count .tick = (ms.take 1).count .tick + (ms.tail.take n).count .tick := by
  rw [Nat.add_comm n 1, List.take_add, List.count_append, List.drop_one]

theorem nextMove_mem_take {s : State} (h : s.nextMove ≠ .engine) (n : Nat) : s.nextMove ∈ s.sched.take (n + 1) := by
  unfold State.nextMove at *
  cases hs : s.sched with
  | nil => simp [hs] at h
  | cons m ms => simp

/-- While fewer ticks come than the counter holds, the delay goes on and counts them all. -/
theorem run_delaying (n : Nat) (s : State) (hd : s.direct = none) (hs : s.st = .delaying)
    (hr : ∀ m ∈ s.sched.take n, m ≠ .rst) (hc : (s.sched.take n).count .tick < s.dly.toNat) :
    ∃ t, Host.Core.run core n s = .next t ∧ TicksCounted ((s.sched.take n).count .tick) s t := by
  induction n generalizing s with
  | zero => exact ⟨s, rfl, hd, hs, rfl, rfl⟩
  | succ n ih =>
    have hz : s.dly ≠ 0 := fun h => by simp [h] at hc
    have hr0 : s.nextMove ≠ .rst := fun h => hr _ (nextMove_mem_take (by simp [h]) n) h
    obtain ⟨u, hstep, hsched, hu⟩ := step_delaying hd hs hr0 hz
    rw [count_tick_take_succ] at hc ⊢
    rw [← hsched] at hc ⊢
    have hru : ∀ m ∈ u.sched.take n, m ≠ .rst := fun m hm => hr m (mem_take_succ_of_mem_tail (hsched ▸ hm))
    obtain ⟨t, hrun, ht⟩ := ih u hu.direct hu.st hru (by rw [hu.dly]; omega)
    exact ⟨t, (run_succ n s u hstep).trans hrun, hu.trans ht⟩

/-- Settles O53: `run_delaying`, by induction on the number of moves. -/
theorem delayIsNeverShortened : Obligations.DelayIsNeverShortened := by
  intro n s hd hs hr hc
  obtain ⟨t, hrun, ht⟩ := run_delaying n s hd hs hr hc
  exact ⟨t, hrun, ht.st, ht.dly, ht.hist⟩

/-! ## The frame buffer (R25, R83, R84) -/

/-- A frame row's next state: the six bytes of the TX space, the length and the accumulator; `bytes` is the frame with the
zeros after it. -/
theorem loadFrame_next (s : State) (bs bytes : List Byte) (hwf : Memory.wf s.txbuf = true) (hl : bs.length ≤ 6)
    (hbytes : ∀ k < 6, bs.getD k 0 = bytes.getD k 0) :
    ∃ t, (.next (s.loadFrame bs) : Result) = .next t ∧
      t = { s with txbuf := t.txbuf, txlen := BitVec.ofNat 3 bs.length, ck := bs.getLastD s.ck } ∧
      ∀ k, Memory.read t.txbuf k = if k < 6 then bytes.getD k 0 else Memory.read s.txbuf k := by
  refine ⟨_, rfl, rfl, fun k => ?_⟩
  rw [read_loadFrame s bs k hwf hl]
  by_cases hk : k < 6
  · rw [if_pos hk, if_pos hk, hbytes k hk]
  · rw [if_neg hk, if_neg hk]

theorem getFrame_padded (c : Byte) (k : Nat) (hk : k < 6) :
    (getBody ++ [c]).getD k 0 = [0x82, 0x01, 0x10, c, 0, 0].getD k 0 := by
  interval_cases k <;> rfl

/-- Settles O24: both rows load their frame, and a get frame is two bytes shorter than the TX space. -/
theorem frameRowsLoadTheBuffer : Obligations.FrameRowsLoadTheBuffer := fun s hi lo c hwf =>
  ⟨loadFrame_next s (getBody ++ [c]) _ hwf (by simp) (getFrame_padded c),
    loadFrame_next s (setBody hi lo ++ [c]) _ hwf (by simp) fun _ _ => rfl⟩

/-! ## A word placed for fetching (R21, R34, R74; log 2) -/

/-- `st` after a word has been placed: a state code is placed there, any other word leaves it. -/
def placedSt (s : State) : Encoded → St
  | .state c => stOfCode c
  | .req _ | .resp _ | .cmd _ | .res _ => s.st

/-- Of the registers, placing a word and driving the move it comes with change `st` at most. -/
structure RunsAsPlaced (s : State) (w : Encoded) (t : State) : Prop where
  direct : t.direct = none
  hist : t.hist = s.hist
  cfg : t.cfg = s.cfg
  st : t.st = placedSt s w
  registers : SameRegisters { s with st := t.st } t

theorem step_place {s : State} {w : Encoded} {i : Instr} (h : decode w = .ok i) :
    ∃ t, step (s.place w) = exec i t ∧ RunsAsPlaced s w t := by
  cases w with
  | state c =>
    refine ⟨(s.place (.state c)).drive .engine, step_of_fetch ?_, ⟨rfl, rfl, rfl, rfl, ?_⟩⟩
    · refine (fetch_move _ rfl (by simp [State.nextMove, State.place])).trans (fetchFrom_ok _ _ i ?_)
      exact (decode_stCode _).trans h
    · simp [SameRegisters, State.place]
  | cmd w =>
    refine ⟨(s.place (.cmd w)).drive (.offer w true), step_of_fetch ?_, ⟨rfl, rfl, rfl, rfl, ?_⟩⟩
    · exact (fetch_move _ rfl (by simp [State.nextMove, State.place])).trans (fetchFrom_ok _ _ i h)
    · simp [SameRegisters, State.place]
  | req | resp | res =>
    refine ⟨_, step_of_fetch ((fetch_direct _ _ rfl).trans (fetchFrom_ok _ _ i h)), ⟨rfl, rfl, rfl, rfl, ?_⟩⟩
    simp [SameRegisters, State.place]

theorem placedSt_tableWord (s : State) (nbits w : Nat) :
    placedSt s (tableWord nbits w) = if nbits ≤ 8 then stOfCode (BitVec.ofNat 3 w) else s.st := by
  unfold tableWord
  split_ifs <;> rfl

theorem decode_tableWord {nbits w : Nat} {i : Instr} (h : decodeTableWord nbits w = some i) :
    decode (tableWord nbits w) = .ok i := by
  unfold decodeTableWord at h
  split at h
  · next hd => rw [hd, Option.some.inj h]
  · cases h

/-- Settles O3: a state code is fetched at the engine's turn from `st`, a command word with the offer placed first, any other
word as one driven directly. -/
theorem placedWordIsTheOneRun : Obligations.PlacedWordIsTheOneRun := by
  intro s nbits w i h
  obtain ⟨t, hstep, hdirect, hhist, hcfg, hst, hregs⟩ := step_place (s := s) (decode_tableWord h)
  exact ⟨t, hstep, hdirect, hhist, hcfg, hst.trans (placedSt_tableWord s nbits w), hregs⟩

/-! ## The result kind's code (R31, R68) -/

theorem resOfCode_resCodeOf (k : ResKind) : resOfCode (resCodeOf k) = some k := by cases k <;> rfl

theorem resCodeOf_of_resOfCode {c : Code3} {k : ResKind} (h : resOfCode c = some k) : resCodeOf k = c := by
  cases k <;> decide +revert

/-- Settles O10: the port shows the kind's code, and the decoder inverts it. -/
theorem kindCodesAreTheTable : Obligations.KindCodesAreTheTable := by
  refine ⟨fun s => ?_, fun c k => ⟨resCodeOf_of_resOfCode, fun h => h ▸ resOfCode_resCodeOf k⟩, rfl⟩
  unfold State.resKindPort
  cases s.resKind <;> rfl

/-! ## Reset and the outputs (R32, R37, R38) -/

/-- Settles O11: the reset state and its outputs, evaluated. -/
theorem resetGivesTheStatedValues : Obligations.ResetGivesTheStatedValues :=
  ⟨rfl, rfl, rfl, rfl, rfl, rfl, rfl, rfl, rfl⟩

theorem quiescent_iff (st : St) : quiescent st = true ↔ st = .idle ∨ st = .done ∨ st = .failed := by
  cases st <;> decide

theorem ended_iff (st : St) : ended st = true ↔ st = .done ∨ st = .failed := by
  cases st <;> decide

/-- Settles O14: the outputs are the two tests of `st`. -/
theorem statusOutputsFollowSt : Obligations.StatusOutputsFollowSt :=
  fun s => ⟨quiescent_iff s.st, rfl, ended_iff s.st⟩

/-- Settles O41: nothing is asked of `Idle` but an empty result, and after reset nothing is pending and both buffers are
zero. -/
theorem invariantAtReset : Obligations.InvariantAtReset where
  busyHasNoResult _ := rfl
  frameLength h := nomatch h
  frameBytes h := nomatch h
  writingCount h := nomatch h
  readingIsGet h := nomatch h
  delayingCount h := nomatch h
  pendingStates h := nomatch h
  luminanceInRange h := nomatch h
  doneKind h := nomatch h
  failedKind h := nomatch h
  idleKind _ := rfl
  setFailure h := nomatch h
  delayBound h := nomatch h
  txSpace := ⟨rfl, rfl⟩
  rxSpace := ⟨rfl, rfl⟩
  nothingInFlight _ := rfl
  writeInFlight h := nomatch h
  readInFlight h := nomatch h
  noDirect := rfl

/-! ## The success rows (R31, R97, R100; log 4) -/

/-- Settles O39: each row is one update of the state, whose free values are left to the next state. -/
theorem successRowsEndTheRequest : Obligations.SuccessRowsEndTheRequest :=
  fun _ => ⟨⟨_, rfl, rfl⟩, ⟨_, rfl, rfl⟩, ⟨_, rfl, rfl⟩⟩

end Sys2Proof.Registers

/-! PROOFS. The statements of 20_memory.md: where the two transactions stop (R40, R46, R86), that a safe state stops nowhere (R46,
R135), and what a response driven at the response decoder does (R46, R70, R85, R124). -/

namespace Sys2Proof.MemorySpaces

open Sys2Proof.Machine Sys2Proof.Laws Sys2Proof.Scope Sys2Proof.Registers

/-! ## What the transport's answers run, and what they answer (R96, R97, R99) -/

section Transactions

variable {u : State}

theorem execStWriting_issue (h : u.turn = .engine) (hp : u.pend = false) : execStWriting u = writeIssue u := by
  simp only [execStWriting, h, hp, Bool.false_eq_true, if_false]

theorem execStWriting_answer (h : u.turn = .writeDone) (hp : u.pend = true) : execStWriting u = writeAnswer u := by
  simp only [execStWriting, h, if_pos hp]

theorem execStWriting_stray_answer (h : u.turn = .writeDone) (hp : u.pend = false) : execStWriting u = .next u := by
  simp only [execStWriting, h, hp, Bool.false_eq_true, if_false]

theorem execStReading_answer (h : u.turn = .readDone) (hp : u.pend = true) : execStReading u = readAnswer u := by
  simp only [execStReading, h, if_pos hp]

theorem execStReading_stray_answer (h : u.turn = .readDone) (hp : u.pend = false) : execStReading u = .next u := by
  simp only [execStReading, h, hp, Bool.false_eq_true, if_false]

theorem writeIssue_without_frame (hf : u.txFrame = none) : writeIssue u = .fault .txOffset := by
  simp only [writeIssue, hf]

theorem writeAnswer_without_frame (hf : u.txFrame = none) : writeAnswer u = .fault .txOffset := by
  simp only [writeAnswer, hf]

theorem writeAnswer_count_zero {f : List Byte} (hf : u.txFrame = some f) (hx : u.xwStatus = 0) (hw : u.wrLeft = 0) :
    writeAnswer u = .fault .writeCountZero := by
  simp [writeAnswer, hf, statusFailed, hx, hw]

/-- With a frame and a write to count, a write's answer has a next state, whatever its status. -/
theorem exists_next_writeAnswer {f : List Byte} (hf : u.txFrame = some f) (hw : u.wrLeft ≠ 0) :
    ∃ t, writeAnswer u = .next t := by
  simp only [writeAnswer, hf, if_neg hw]
  split_ifs <;> exact ⟨_, rfl⟩

theorem readAnswer_overlong (h : u.cfg.respLen < u.xrData.length) : readAnswer u = .refused .overlongRead := by
  rcases fillRx_cases u u.xrData with ⟨hl, _⟩ | ⟨_, hf⟩
  · exact absurd h (Nat.not_lt.mpr hl)
  · simp only [readAnswer, hf]

/-- A read's answer of at most `RESP_LEN` bytes has a next state, whatever its status. -/
theorem exists_next_readAnswer (h : u.xrData.length ≤ u.cfg.respLen) : ∃ t, readAnswer u = .next t := by
  rcases fillRx_cases u u.xrData with ⟨_, hf⟩ | ⟨hl, _⟩
  · simp only [readAnswer, hf]
    split_ifs <;> exact ⟨_, rfl⟩
  · exact absurd h (Nat.not_le.mpr hl)

end Transactions

/-! ## A safe state stops nowhere (R46, R135(a)) -/

section Progress

variable {u : State}

/-- `Writing` needs a frame to hand over and a write left to count down. -/
theorem exists_next_execStWriting {f : List Byte} (hf : u.txFrame = some f) (hw : u.wrLeft ≠ 0) :
    ∃ t, execStWriting u = .next t := by
  cases ht : u.turn with
  | engine =>
    cases hp : u.pend with
    | false => exact ⟨_, execStWriting_engine_issue ht hp hf⟩
    | true => exact ⟨_, execStWriting_engine_pending ht hp⟩
  | writeDone =>
    cases hp : u.pend with
    | false => exact ⟨_, execStWriting_stray_answer ht hp⟩
    | true => rw [execStWriting_answer ht hp]; exact exists_next_writeAnswer hf hw
  | host | tick | readDone => exact ⟨u, by simp only [execStWriting, ht]⟩

/-- `Reading` needs an answer the RX space has room for. -/
theorem exists_next_execStReading (hl : u.turn = .readDone → u.xrData.length ≤ u.cfg.respLen) :
    ∃ t, execStReading u = .next t := by
  cases ht : u.turn with
  | engine =>
    cases hp : u.pend with
    | false => exact ⟨_, execStReading_engine_issue ht hp⟩
    | true => exact ⟨_, execStReading_engine_pending ht hp⟩
  | readDone =>
    cases hp : u.pend with
    | false => exact ⟨_, execStReading_stray_answer ht hp⟩
    | true => rw [execStReading_answer ht hp]; exact exists_next_readAnswer (hl ht)
  | host | tick | writeDone => exact ⟨u, by simp only [execStReading, ht]⟩

/-- R38(c): in `Writing` a write is still to do. -/
theorem wrLeft_ne_zero_of_writing (hi : Inv u) (hs : u.st = .writing) : u.wrLeft ≠ 0 := by
  rcases hi.writingCount hs with hw | ⟨hw, _⟩ <;> simp [hw]

/-- In a safe state the micro-operation of `st` has a next state, for every agent's event whose data the RX space has room
for. -/
theorem exists_next_microOperation (hi : Inv u) (hl : u.turn = .readDone → u.xrData.length ≤ u.cfg.respLen) :
    ∃ t, exec (instrOfSt u.st) u = .next t := by
  cases hs : u.st with
  | idle | done | failed => exact ⟨u.quiesce, rfl⟩
  | building | delaying | decoding =>
    simp only [instrOfSt, exec, execStBuilding, execStDelaying, execStDecoding]
    cases u.turn <;> exact ⟨_, rfl⟩
  | writing => exact exists_next_execStWriting (hi.frameBytes (by rw [hs]; rfl)) (wrLeft_ne_zero_of_writing hi hs)
  | reading => exact exists_next_execStReading hl

end Progress

/-- The data of a move within the interface fit the RX space (R46). -/
theorem xrData_length_le {cfg : Config} {m : Move} (held : List Byte) (h : m.withinInterface cfg = true)
    (ht : m.turn = .readDone) : (m.xrData held).length ≤ cfg.respLen := by
  cases m with
  | readDone status data => exact of_decide_eq_true h
  | engine | offer | tick | writeDone | rst => cases ht

/-- Settles O43: a reset and an offer never stop, and every other move runs the micro-operation of a safe state. -/
theorem safeStatesNeverStop : Obligations.SafeStatesNeverStop := by
  intro s hi hm
  by_cases hr : s.nextMove = .rst
  · exact ⟨_, step_rst s hi.noDirect hr⟩
  rcases step_move s hi.noDirect hr with ⟨w, a, _, hs⟩ | ⟨_, hs⟩
  · exact ⟨_, hs⟩
  · rw [hs]
    exact exists_next_microOperation (u := s.drive s.nextMove) (inv_drive hi _) (xrData_length_le s.xrData hm)

/-! ## A response driven at the response decoder (R46, R70(c), R85, R124; log 7) -/

/-- A response that is a row of the table is that row's bytes. -/
theorem replyBytes_of_decodeResp {bytes : List Byte} {i : Instr} (h : decodeResp bytes = .ok i) :
    ∃ mid hi lo tail, i = .vcpReply mid hi lo tail ∧ replyBytes mid hi lo tail = bytes := by
  unfold decodeResp at h
  split at h
  · split_ifs at h with _ hsrc
    rw [not_ne_iff] at hsrc
    cases h
    exact ⟨_, _, _, _, rfl, hsrc ▸ rfl⟩
  · cases h

/-- A driven response is delivered and decoded, whether it is a row of the table or not. -/
theorem step_driven_response {s : State} {bytes : List Byte} (hd : s.direct = some (.resp bytes)) :
    step s = ({ s with direct := none, turn := .engine } : State).deliver bytes := by
  cases hw : decodeResp bytes with
  | ok i =>
    obtain ⟨mid, hi, lo, tail, rfl, rfl⟩ := replyBytes_of_decodeResp hw
    exact step_of_fetch ((fetch_direct s _ hd).trans (fetchFrom_ok _ _ _ hw))
  | error e =>
    have hdec : decode (.resp bytes) = .error e := hw
    simp only [step, fetch_direct s _ hd, fetchFrom, hdec]

theorem decodeStep_rxbuf (s : State) : s.decodeStep.rxbuf = s.rxbuf := by
  rcases decodeStep_cases s with ⟨_, h⟩ | ⟨_, h⟩ <;> rw [h] <;> rfl

/-- DECODE on a zero-filled buffer that holds these bytes from offset 0 up (R85, R100). -/
theorem decodeStep_filled_cases (s : State) (bytes : List Byte) :
    (bytes.getD 0 0 = 0x6E ∧ (s.setRx (Memory.writeList [] 0 bytes)).decodeStep =
      (s.setRx (Memory.writeList [] 0 bytes)).endRequest .value (some (bytes.getD 9 0)) none .done) ∨
    (bytes.getD 0 0 ≠ 0x6E ∧ (s.setRx (Memory.writeList [] 0 bytes)).decodeStep =
      (s.setRx (Memory.writeList [] 0 bytes)).endRequest .invalidResponse none none .failed) := by
  have hlo : (s.setRx (Memory.writeList [] 0 bytes)).curLo = bytes.getD 9 0 := memory_read_filled bytes 9
  have hsrc : Memory.read (s.setRx (Memory.writeList [] 0 bytes)).rxbuf srcOff = bytes.getD 0 0 :=
    memory_read_filled bytes 0
  have hcases := decodeStep_cases (s.setRx (Memory.writeList [] 0 bytes))
  rwa [hlo, hsrc] at hcases

/-- Settles O57: the response fills a zero-filled buffer, and the byte at offset 0 chooses DECODE's outcome. -/
theorem drivenResponseIsDecoded : Obligations.DrivenResponseIsDecoded := by
  intro s bytes hd hl
  have hstep := step_driven_response hd
  rcases deliver_cases { s with direct := none, turn := .engine } bytes with ⟨_, hn⟩ | ⟨hlong, _⟩
  · refine ⟨_, hstep.trans hn, fun k => ?_, ?_⟩
    · rw [decodeStep_rxbuf]
      exact memory_read_filled bytes k
    · rcases decodeStep_filled_cases { s with direct := none, turn := .engine } bytes with ⟨hsrc, ht⟩ | ⟨hsrc, ht⟩ <;>
        rw [ht]
      · exact ⟨fun _ => rfl, fun hne => absurd hsrc hne⟩
      · exact ⟨fun heq => absurd heq hsrc, fun _ => rfl⟩
  · exact absurd hl (Nat.not_le.mpr hlong)

/-! ## Where the two transactions stop (R40, R46, R86; log 14, log 15) -/

/-- The TX space has no frame of 7 bytes (R40(a)). -/
theorem txFrame_of_txlen_seven {s : State} (h : s.txlen = 7) : s.txFrame = none :=
  txFrame_none s (by rw [h]; decide)

/-- Settles O31: a length of 7 names no frame to issue or to answer for, and a successful answer needs a write to count. -/
theorem unreachableCountersStop : Obligations.UnreachableCountersStop := by
  refine fun s => ⟨fun ht hp h7 => ?_, fun ht hp h7 => ?_, fun ht hp h6 hx hw => ?_⟩
  · exact (execStWriting_issue ht hp).trans (writeIssue_without_frame (txFrame_of_txlen_seven h7))
  · exact (execStWriting_answer ht hp).trans (writeAnswer_without_frame (txFrame_of_txlen_seven h7))
  · exact (execStWriting_answer ht hp).trans (writeAnswer_count_zero (txFrame_eq s h6) hx hw)

/-- Settles O35: the answer is the read's, and `rxbuf` cannot be filled with it. -/
theorem overlongReadIsRefused : Obligations.OverlongReadIsRefused :=
  fun _ ht hp hl => (execStReading_answer ht hp).trans (readAnswer_overlong hl)

end Sys2Proof.MemorySpaces

/-! PROOFS. The statements of 30_encoding.md: the decoder and the encoder invert each other (R60 to R69), which words are legal
(R66 to R71), the frames the engine builds (R61, R62, R65, R83, R84), what a response frame does (R66, R85, R100), and what the
words that are no row do (R65, R68, R70). -/

namespace Sys2Proof.Encoding

open Sys2Proof.Machine Sys2Proof.Laws Sys2Proof.Scope Sys2Proof.Registers Sys2Proof.MemorySpaces

/-! ## State codes and kind codes (R68, R69, R74) -/

theorem stCode_stOfCode (c : Code3) : stCode (stOfCode c) = c := by decide +revert

theorem encode_instrOfSt (st : St) : encode (instrOfSt st) = .state (stCode st) := by cases st <;> rfl

theorem encode_instrOfRes (k : ResKind) : encode (instrOfRes k) = .res (resCodeOf k) := by cases k <;> rfl

theorem resOfCode_isSome_iff (c : Code3) : (resOfCode c).isSome = true ↔ c ≠ 7 := by decide +revert

theorem decode_res_eq_ok_iff {c : Code3} {i : Instr} :
    decode (.res c) = .ok i ↔ ∃ k, resOfCode c = some k ∧ instrOfRes k = i := by
  cases hk : resOfCode c <;> simp [decode, hk]

theorem decode_resCodeOf (k : ResKind) : decode (.res (resCodeOf k)) = .ok (instrOfRes k) :=
  decode_res_eq_ok_iff.2 ⟨k, resOfCode_resCodeOf k, rfl⟩

/-! ## Command words (R67) -/

theorem instrOfCmd_eq (w : CmdWord) :
    instrOfCmd w = if w.getLsbD 16 then .set (cmdValueOf w) else .get (cmdValueOf w) := by
  unfold instrOfCmd cmdOpOf
  cases w.getLsbD 16 <;> rfl

theorem instrOfCmd_cmdWordOf (op : CmdOp) (v : Raw) :
    instrOfCmd (cmdWordOf op v) = match op with | .get => .get v | .set => .set v := by
  cases op <;> simp [instrOfCmd]

theorem cmdValueOf_eq_setWidth (w : CmdWord) : cmdValueOf w = w.setWidth 16 := by
  simp [cmdValueOf, BitVec.setWidth_eq_extractLsb']

theorem encode_instrOfCmd (w : CmdWord) : encode (instrOfCmd w) = .cmd (cmdWordOf (cmdOpOf w) (cmdValueOf w)) := by
  unfold instrOfCmd
  cases cmdOpOf w <;> rfl

theorem cmdOpOf_eq_set_iff (w : CmdWord) : cmdOpOf w = .set ↔ w.getLsbD 16 = true := by
  simp [cmdOpOf]

theorem getLsbD_cmdValueOf (w : CmdWord) {k : Nat} (hk : k < 16) : (cmdValueOf w).getLsbD k = w.getLsbD k := by
  simp [cmdValueOf, hk]

/-- A command word is its bit 16 and its bits 15:0. -/
theorem cmdWord_ext {w v : CmdWord} (hop : cmdOpOf w = cmdOpOf v) (hvalue : cmdValueOf w = cmdValueOf v) : w = v := by
  refine BitVec.eq_of_getLsbD_eq fun k hk => ?_
  rcases Nat.lt_succ_iff_lt_or_eq.1 hk with hlow | rfl
  · rw [← getLsbD_cmdValueOf w hlow, hvalue, getLsbD_cmdValueOf v hlow]
  · rw [Bool.eq_iff_iff, ← cmdOpOf_eq_set_iff, hop, cmdOpOf_eq_set_iff]

theorem cmdWordOf_cmdOpOf_cmdValueOf (w : CmdWord) : cmdWordOf (cmdOpOf w) (cmdValueOf w) = w :=
  cmdWord_ext (cmdOpOf_cmdWordOf _ _) (cmdValueOf_cmdWordOf _ _)

/-! ## Request frames (R61 to R63, R70, R71) -/

/-- The request frames that decode are those of the two rows. -/
theorem decodeReq_eq_ok_iff {bytes : List Byte} {i : Instr} :
    decodeReq bytes = .ok i ↔
      (∃ c, bytes = getBody ++ [c] ∧ i = .getFrame c) ∨
      (∃ hi lo c, bytes = setBody hi lo ++ [c] ∧ i = .setFrame hi lo c) := by
  constructor
  · intro h
    unfold decodeReq at h
    split at h
    · next op len vcp rest =>
      split_ifs at h with hop hlen hvcp hop' hlen hvcp
      · rw [not_ne_iff] at hlen hvcp
        split at h
        · next c =>
          cases h
          exact .inl ⟨c, by rw [hop, hlen, hvcp]; rfl, rfl⟩
        · cases h
      · rw [not_ne_iff] at hlen hvcp
        split at h
        · next hi lo c =>
          cases h
          exact .inr ⟨hi, lo, c, by rw [hop', hlen, hvcp]; rfl, rfl⟩
        · cases h
    · cases h
  · rintro (⟨c, rfl, rfl⟩ | ⟨hi, lo, c, rfl, rfl⟩) <;> rfl

/-! ## Response frames (R66) -/

theorem respLen_bounds (cfg : Config) : 12 ≤ cfg.respLen ∧ cfg.respLen ≤ 16 := by
  have := cfg.respExtra.isLt
  unfold Config.respLen
  omega

theorem vcpReply_wf_iff {cfg : Config} {mid tail : List Byte} {hi lo : Byte} :
    (Instr.vcpReply mid hi lo tail).wf cfg = true ↔ mid.length = 7 ∧ tail.length + 10 = cfg.respLen := by
  simp [Instr.wf]

theorem replyBytes_length (mid : List Byte) (hi lo : Byte) (tail : List Byte) :
    (replyBytes mid hi lo tail).length = mid.length + tail.length + 3 := by
  simp [replyBytes]
  omega

/-- The response frames that decode are those whose row has room for 12 to 16 bytes. -/
theorem decodeResp_eq_ok_iff {bytes : List Byte} {i : Instr} :
    decodeResp bytes = .ok i ↔
      ∃ mid hi lo tail, mid.length = 7 ∧ 2 ≤ tail.length ∧ tail.length ≤ 6 ∧
        bytes = replyBytes mid hi lo tail ∧ i = .vcpReply mid hi lo tail := by
  constructor
  · intro h
    unfold decodeResp at h
    split at h
    · split_ifs at h with htail hsrc
      obtain ⟨h2, h6⟩ := not_or.1 htail
      rw [not_ne_iff] at hsrc
      cases h
      exact ⟨_, _, _, _, rfl, Nat.le_of_not_lt h2, Nat.le_of_not_lt h6, hsrc ▸ rfl, rfl⟩
    · cases h
  · rintro ⟨mid, hi, lo, tail, hmid, h2, h6, rfl, rfl⟩
    match mid, hmid with
    | [b1, b2, b3, b4, b5, b6, b7], _ =>
      simp [replyBytes, decodeResp, Nat.not_lt.mpr h2, Nat.not_lt.mpr h6]

/-- A sequence of at least ten bytes that begins with the display's address is a response frame's. -/
theorem exists_replyBytes {bytes : List Byte} (hl : 10 ≤ bytes.length) (hs : bytes.head? = some displayAddr) :
    ∃ mid hi lo tail, mid.length = 7 ∧ bytes = replyBytes mid hi lo tail := by
  match bytes, hl with
  | src :: b1 :: b2 :: b3 :: b4 :: b5 :: b6 :: b7 :: hi :: lo :: tail, _ =>
    cases hs
    exact ⟨[b1, b2, b3, b4, b5, b6, b7], hi, lo, tail, rfl, rfl⟩

/-! ## The decoder and the encoder (R60, R74) -/

/-- Settles O5: the codes and the command word invert, a request frame's bytes are its row's, and a response frame of `RESP_LEN`
bytes has 2 to 6 bytes after its value. -/
theorem decodeOfEncode : Obligations.DecodeOfEncode := by
  intro cfg i hwf
  cases i with
  | getFrame | setFrame => rfl
  | get v => exact congrArg Except.ok (instrOfCmd_cmdWordOf .get v)
  | set v => exact congrArg Except.ok (instrOfCmd_cmdWordOf .set v)
  | vcpReply mid hi lo tail =>
    obtain ⟨hmid, htail⟩ := vcpReply_wf_iff.1 hwf
    obtain ⟨h12, h16⟩ := respLen_bounds cfg
    exact decodeResp_eq_ok_iff.2 ⟨mid, hi, lo, tail, hmid, by omega, by omega, rfl, rfl⟩
  | stIdle | stBuilding | stDelaying | stWriting | stReading | stDecoding | stDone | stFailed => exact decode_stCode _
  | resNone | resValue | resOk | resConnectionUnavailable | resWriteFailed | resReadFailed | resInvalidResponse =>
    exact decode_resCodeOf _

/-- Settles O6: in each format the word that decodes is built again from the row's fields. -/
theorem encodeOfDecode : Obligations.EncodeOfDecode := by
  intro w i h
  cases w with
  | req bytes =>
    rcases decodeReq_eq_ok_iff.1 h with ⟨c, rfl, rfl⟩ | ⟨hi, lo, c, rfl, rfl⟩ <;> rfl
  | resp bytes =>
    obtain ⟨mid, hi, lo, tail, _, _, _, rfl, rfl⟩ := decodeResp_eq_ok_iff.1 h
    rfl
  | cmd w =>
    cases h
    rw [encode_instrOfCmd, cmdWordOf_cmdOpOf_cmdValueOf]
  | res c =>
    obtain ⟨k, hk, rfl⟩ := decode_res_eq_ok_iff.1 h
    rw [encode_instrOfRes, resCodeOf_of_resOfCode hk]
  | state c =>
    cases h
    rw [encode_instrOfSt, stCode_stOfCode]

/-! ## Which words are legal (R66 to R71) -/

theorem req_legal_iff (bytes : List Byte) :
    (∃ i, decode (.req bytes) = .ok i) ↔
      (bytes.length = 4 ∧ bytes.take 3 = [0x82, 0x01, 0x10]) ∨ (bytes.length = 6 ∧ bytes.take 3 = [0x84, 0x03, 0x10]) := by
  constructor
  · rintro ⟨i, h⟩
    rcases decodeReq_eq_ok_iff.1 h with ⟨c, rfl, _⟩ | ⟨hi, lo, c, rfl, _⟩
    · exact .inl ⟨rfl, rfl⟩
    · exact .inr ⟨rfl, rfl⟩
  · rintro (⟨hl, ht⟩ | ⟨hl, ht⟩)
    · match bytes, hl with
      | [_, _, _, _], _ =>
        cases ht
        exact ⟨_, rfl⟩
    · match bytes, hl with
      | [_, _, _, _, _, _], _ =>
        cases ht
        exact ⟨_, rfl⟩

theorem resp_legal_iff (bytes : List Byte) :
    (∃ i, decode (.resp bytes) = .ok i) ↔ 12 ≤ bytes.length ∧ bytes.length ≤ 16 ∧ bytes.head? = some 0x6E := by
  constructor
  · rintro ⟨i, h⟩
    obtain ⟨mid, hi, lo, tail, hmid, h2, h6, rfl, _⟩ := decodeResp_eq_ok_iff.1 h
    rw [replyBytes_length]
    exact ⟨by omega, by omega, rfl⟩
  · rintro ⟨h12, h16, hs⟩
    obtain ⟨mid, hi, lo, tail, hmid, rfl⟩ := exists_replyBytes (by omega) hs
    rw [replyBytes_length] at h12 h16
    exact ⟨_, decodeResp_eq_ok_iff.2 ⟨mid, hi, lo, tail, hmid, by omega, by omega, rfl, rfl⟩⟩

theorem res_legal_iff (c : Code3) : (∃ i, decode (.res c) = .ok i) ↔ c ≠ 7 := by
  simp only [decode_res_eq_ok_iff, ← resOfCode_isSome_iff, Option.isSome_iff_exists]
  exact ⟨fun ⟨_, k, hk, _⟩ => ⟨k, hk⟩, fun ⟨k, hk⟩ => ⟨_, k, hk, rfl⟩⟩

/-- Settles O8: every state code has a row, and the other formats by the exact sets of words above. -/
theorem legalWordsAreTheTables : Obligations.LegalWordsAreTheTables :=
  ⟨fun _ => ⟨_, rfl⟩, res_legal_iff, req_legal_iff, resp_legal_iff⟩

/-- Settles O4: each word, decoded by evaluation. -/
theorem sampleWordsDecode : Obligations.SampleWordsDecode := ⟨rfl, rfl, rfl, rfl, rfl, rfl, rfl⟩

/-- Settles O7: every command word has a row, chosen by its bit 16. -/
theorem everyCommandWordIsLegal : Obligations.EveryCommandWordIsLegal := fun w => by
  rw [decode_cmd, instrOfCmd_eq, cmdValueOf_eq_setWidth]

/-- Settles O9: the port shows the state's code, and codes and states invert each other. -/
theorem stateCodesAreTheTable : Obligations.StateCodesAreTheTable := by
  refine ⟨fun s => ?_, stCode_stOfCode, stOfCode_stCode⟩
  unfold State.stPort
  cases s.st <;> rfl

/-! ## The frames the engine builds (R61, R62, R65, R83, R84) -/

/-- Settles O17: the checksum of the get frame in closed form. -/
theorem getFrameBytes : Obligations.GetFrameBytes := fun cfg =>
  ⟨by rw [buildGet, getCksum_eq]; rfl, rfl⟩

theorem setCksum_of_high_zero (cfg : Config) (lum : Byte) : setCksum cfg 0 lum = cfg.ck0Set ^^^ 0x97 ^^^ lum := by
  simp [setCksum_eq, BitVec.xor_assoc]

/-- Settles O18: the high value byte is 0 and drops out of the checksum. -/
theorem setFrameBytes : Obligations.SetFrameBytes := fun cfg lum =>
  ⟨by rw [buildSet, valHigh_eq_zero, valLow_eq, setCksum_of_high_zero]; rfl, rfl⟩

/-- The row of the frame built for a command. -/
def builtRow (cfg : Config) (op : CmdOp) (raw : Raw) : Instr :=
  match op with
  | .get => .getFrame (getCksum cfg)
  | .set => .setFrame (valHigh (clamp raw)) (valLow (clamp raw))
      (setCksum cfg (valHigh (clamp raw)) (valLow (clamp raw)))

theorem decode_requestFrame (cfg : Config) (op : CmdOp) (raw : Raw) :
    decode (.req (requestFrame cfg op raw)) = .ok (builtRow cfg op raw) := by
  cases op <;> rfl

theorem builtRow_wf (cfg : Config) (op : CmdOp) (raw : Raw) : (builtRow cfg op raw).wf cfg = true := by
  cases op <;> simp [builtRow, Instr.wf]

/-- Settles O19: the frame is its row's bytes, and its checksum is the fold by definition. -/
theorem builtFramesAreWellFormed : Obligations.BuiltFramesAreWellFormed := by
  refine fun s => ⟨builtRow s.cfg s.op s.raw, decode_requestFrame _ _ _, builtRow_wf _ _ _, ?_⟩
  unfold State.builtFrame
  cases s.op <;> rfl

/-! ## BUILD of a luminance over 100 (R73(b), R80, R93) -/

theorem clamp_of_hundred_le {raw : Raw} (h : 100 ≤ raw.toNat) : clamp raw = 100 :=
  BitVec.eq_of_toNat_eq (by rw [clamp_toNat, Nat.min_eq_right h]; rfl)

/-- BUILD of a SET reads `raw` through the clamp only. -/
theorem build_raw_of_clamp_eq {s : State} {r : Raw} (ho : s.op = .set) (hc : clamp s.raw = clamp r) :
    s.build = { ({ s with raw := r } : State).build with raw := s.raw } := by
  have hframe : s.builtFrame = ({ s with raw := r } : State).builtFrame := by
    simp only [State.builtFrame, requestFrame, ho, hc]
  have hlum : lumAfterBuild s.op s.raw s.lum = lumAfterBuild s.op r s.lum := by
    simp only [lumAfterBuild, ho, hc]
  rw [build_eq, build_eq, loadFrame_txbuf, loadFrame_txbuf, hframe, hlum]

/-- Settles O21: both operands clamp to 100. -/
theorem setAboveHundredBuildsHundred : Obligations.SetAboveHundredBuildsHundred := by
  intro s ht ho hr
  have hclamp : clamp s.raw = clamp 100 := (clamp_of_hundred_le (by omega)).trans rfl
  exact ⟨_, execStBuilding_engine ht, (execStBuilding_engine ht).trans (congrArg _ (build_raw_of_clamp_eq ho hclamp))⟩

/-! ## The response row and the DECODE step (R66, R85, R100; log 6) -/

theorem replyBytes_getD_nine {mid : List Byte} (hmid : mid.length = 7) (hi lo : Byte) (tail : List Byte) :
    (replyBytes mid hi lo tail).getD 9 0 = lo := by
  rw [replyBytes, List.getD_cons_succ, List.getD_append_right _ _ _ _ (by omega), hmid]
  rfl

/-- Settles O25: the row's frame is delivered, its source byte is the display's and its byte at offset 9 the value. -/
theorem replyRowReturnsTheLowByte : Obligations.ReplyRowReturnsTheLowByte := by
  intro s mid hi lo tail hmid
  have hlen : (replyBytes mid hi lo tail).length = tail.length + 10 := by rw [replyBytes_length]; omega
  rcases deliver_cases s (replyBytes mid hi lo tail) with ⟨hl, hn⟩ | ⟨hl, hr⟩
  · refine ⟨fun _ => ⟨_, hn, ?_, fun k => ?_⟩, fun hlong => absurd hlong (by omega)⟩
    · rcases decodeStep_filled_cases s (replyBytes mid hi lo tail) with ⟨_, ht⟩ | ⟨hsrc, _⟩
      · rw [ht, replyBytes_getD_nine hmid]
        rfl
      · exact absurd rfl hsrc
    · rw [decodeStep_rxbuf]
      exact memory_read_filled _ k
  · exact ⟨fun hfits => absurd hfits (by omega), fun _ => hr⟩

theorem memory_readList_getD (m : Memory) (a n k : Nat) :
    (Memory.readList m a n).getD k 0 = if k < n then Memory.read m (a + k) else 0 := by
  induction n generalizing a k with
  | zero => simp [Memory.readList]
  | succ n ih =>
    cases k with
    | zero => simp [Memory.readList]
    | succ k =>
      rw [Memory.readList, List.getD_cons_succ, ih]
      simp only [Nat.add_lt_add_iff_right, Nat.add_right_comm a 1 k, Nat.add_assoc]

/-- A canonical space of `n` bytes is what writing its `n` bytes into a zero-filled one gives. -/
theorem memory_writeList_readList {m : Memory} {n : Nat} (hwf : Memory.wf m = true) (hb : Memory.below n m = true) :
    Memory.writeList [] 0 (Memory.readList m 0 n) = m := by
  refine memory_ext _ _ (memory_writeList_wf _ _ _ rfl) hwf fun a => ?_
  rw [memory_read_filled, memory_readList_getD, Nat.zero_add]
  split_ifs with ha
  · rfl
  · exact (memory_read_beyond n m a hb (Nat.le_of_not_lt ha)).symm

/-- Settles O26: delivering the bytes `rxbuf` holds leaves `rxbuf` as it is, and both then decode it. -/
theorem decodeStepRunsTheReplyRow : Obligations.DecodeStepRunsTheReplyRow := by
  intro s mid hi lo tail ht hwf hb _ hword
  have hbytes : replyBytes mid hi lo tail = Memory.readList s.rxbuf 0 s.cfg.respLen := Encoded.resp.inj hword
  have hrow : exec (.vcpReply mid hi lo tail) s = .next s.decodeStep := by
    rcases deliver_cases s (replyBytes mid hi lo tail) with ⟨_, hn⟩ | ⟨hlong, _⟩
    · refine hn.trans ?_
      rw [hbytes, memory_writeList_readList hwf hb]
      rfl
    · rw [hbytes, memory_readList_length] at hlong
      exact absurd hlong (Nat.lt_irrefl _)
  exact (execStDecoding_engine ht).trans hrow.symm

/-- DECODE reads offsets 0 and 9 of `rxbuf` only. -/
theorem decodeStep_setRx {s : State} {other : Memory} (h0 : Memory.read other 0 = Memory.read s.rxbuf 0)
    (h9 : Memory.read other 9 = Memory.read s.rxbuf 9) :
    (s.setRx other).decodeStep = s.decodeStep.setRx other := by
  have hlo : (s.setRx other).curLo = s.curLo := h9
  rcases decodeStep_cases s with ⟨hs, hd⟩ | ⟨hs, hd⟩ <;>
    rcases decodeStep_cases (s.setRx other) with ⟨hs', hd'⟩ | ⟨hs', hd'⟩
  · rw [hd, hd', hlo]
    rfl
  · exact absurd (h0.trans hs) hs'
  · exact absurd (h0.symm.trans hs') hs
  · rw [hd, hd']
    rfl

/-- Settles O37: DECODE commutes with exchanging the bytes it does not read. -/
theorem ignoredReplyBytesDoNotMatter : Obligations.IgnoredReplyBytesDoNotMatter := fun s other ht h0 h9 =>
  ⟨_, execStDecoding_engine ht,
    (execStDecoding_engine (u := s.setRx other) ht).trans (congrArg _ (decodeStep_setRx h0 h9))⟩

/-! ## Driven words that are no row (R65, R68, R70, U20; log 7) -/

theorem step_driven_request {s : State} {bytes : List Byte} {e : DecodeError} (hd : s.direct = some (.req bytes))
    (he : decode (.req bytes) = .error e) : step s = .next { s with direct := none, turn := .engine } := by
  simp only [step, fetch_direct s _ hd, fetchFrom, he]

theorem step_driven_reserved_kind {s : State} (hd : s.direct = some (.res 7)) : step s = .fault .reservedKind := by
  have he : decode (.res 7) = .error .reservedKind := rfl
  simp only [step, fetch_direct s _ hd, fetchFrom, he]

/-- Settles O58: such a request frame is fetched as a word that no block reads, and the code 7 stops the fetch. -/
theorem wordsThatAreNoRow : Obligations.WordsThatAreNoRow :=
  ⟨fun _ _ _ => step_driven_request, fun _ => step_driven_reserved_kind⟩

end Sys2Proof.Encoding

/-! PROOFS. The statements of 40_packet_codec.md: the clamp (R80), the laws of the checksum fold (R81), and where two set request
frames differ (R84). -/

namespace Sys2Proof.PacketCodec

open Sys2Proof.Machine Sys2Proof.Laws Sys2Proof.Encoding

/-! ## The clamp (R80) -/

/-- An operand in the range of the luminance is only truncated, which loses nothing. -/
theorem clamp_of_le_hundred {raw : Raw} (h : raw.toNat ≤ 100) : clamp raw = raw.setWidth 8 :=
  BitVec.eq_of_toNat_eq (by
    rw [clamp_toNat, Nat.min_eq_left h, BitVec.toNat_setWidth, Nat.mod_eq_of_lt (by omega)])

theorem clamp_le_hundred (raw : Raw) : (clamp raw).toNat ≤ 100 := by
  rw [clamp_toNat]
  exact Nat.min_le_right _ _

/-- Settles O15: a clamped byte is in range, and widened to 16 bits and truncated again it is itself. -/
theorem clampIsTheMinimum : Obligations.ClampIsTheMinimum := by
  refine fun raw => ⟨clamp_toNat raw, ?_⟩
  have hwide : ((clamp raw).setWidth 16).toNat = (clamp raw).toNat :=
    BitVec.toNat_setWidth_of_le (by decide)
  calc clamp ((clamp raw).setWidth 16)
      = ((clamp raw).setWidth 16).setWidth 8 := clamp_of_le_hundred (hwide.trans_le (clamp_le_hundred raw))
    _ = clamp raw := BitVec.setWidth_setWidth_of_le _ (by decide) |>.trans (BitVec.setWidth_eq _)

/-! ## The fold (R81) -/

theorem xorFold_eq_foldl (init : Byte) (s : List Byte) : xorFold init s = s.foldl (· ^^^ ·) init := by
  induction s generalizing init with
  | nil => rfl
  | cons b s ih => exact ih _

/-- The order of the bytes does not matter, as xor is associative and commutative. -/
theorem xorFold_perm {s t : List Byte} (h : s.Perm t) (init : Byte) : xorFold init s = xorFold init t := by
  rw [xorFold_eq_foldl, xorFold_eq_foldl]
  exact h.foldl_eq init

theorem xorFold_zero_byte (init : Byte) (s t : List Byte) : xorFold init (s ++ 0 :: t) = xorFold init (s ++ t) := by
  rw [xorFold_append, xorFold_append, xorFold_cons]
  exact congrArg (xorFold · t) BitVec.xor_zero

/-- A frame with its checksum appended folds to 0. -/
theorem xorFold_append_self (init : Byte) (s : List Byte) : xorFold init (s ++ [xorFold init s]) = 0 := by
  rw [xorFold_append, xorFold_cons, xorFold_nil, BitVec.xor_self]
  rfl

/-- Settles O16: the five laws above. -/
theorem xorFoldLaws : Obligations.XorFoldLaws := fun init s =>
  ⟨xorFold_nil init, xorFold_eq_foldl init s, fun _ h => xorFold_perm h init, xorFold_zero_byte init s,
    xorFold_append_self init s⟩

/-! ## Where two set request frames differ (R84) -/

theorem buildSet_getD_header (cfg : Config) (a b : Byte) {k : Nat} (hk : k < 4) :
    (buildSet cfg a).getD k 0 = (buildSet cfg b).getD k 0 := by
  rw [(setFrameBytes cfg a).1, (setFrameBytes cfg b).1]
  match k, hk with
  | 0, _ | 1, _ | 2, _ | 3, _ => rfl

theorem buildSet_getD_value (cfg : Config) (lum : Byte) : (buildSet cfg lum).getD 4 0 = lum := by
  rw [(setFrameBytes cfg lum).1]
  rfl

theorem buildSet_getD_cksum (cfg : Config) (lum : Byte) :
    (buildSet cfg lum).getD 5 0 = cfg.ck0Set ^^^ 0x97 ^^^ lum := by
  rw [(setFrameBytes cfg lum).1]
  rfl

/-- Settles O20: the header is the same, the value byte is the luminance, and xor with a fixed byte keeps the checksums apart. -/
theorem setFramesDifferInTwoBytes : Obligations.SetFramesDifferInTwoBytes := by
  intro cfg a b k hab hk
  obtain hheader | rfl | rfl : k < 4 ∨ k = 4 ∨ k = 5 := by omega
  · exact iff_of_false (fun hne => hne (buildSet_getD_header cfg a b hheader)) (by omega)
  · rw [buildSet_getD_value, buildSet_getD_value]
    exact iff_of_true hab (.inl rfl)
  · rw [buildSet_getD_cksum, buildSet_getD_cksum]
    exact iff_of_true (fun heq => hab (BitVec.xor_right_inj _ |>.1 heq)) (.inr rfl)

end Sys2Proof.PacketCodec

/-! PROOFS. The statements of 41_transaction_sequencer.md: the acceptance (R91, R92), the micro-operations (R93 to R100), the
invariants every step keeps (R38), the transition table (R104), where the engine waits for ever (R105, R141), and the whole
command against its reference procedure (R101, R102, R106). -/

namespace Sys2Proof.Sequencer

open Sys2Proof.Machine Sys2Proof.Laws Sys2Proof.Scope Sys2Proof.Registers Sys2Proof.MemorySpaces Sys2Proof.Encoding

/-! ## What the invariant asks in each sequencer state (R38)

The invariant speaks of every state at once. Said once for each position, a step is proved safe by what the position it enters
asks. -/

/-- Asked in every state: the two spaces are canonical, and no word is driven directly. -/
structure Spaces (s : State) : Prop where
  tx : Memory.wf s.txbuf = true ∧ Memory.below txSize s.txbuf = true
  rx : Memory.wf s.rxbuf = true ∧ Memory.below s.cfg.respLen s.rxbuf = true
  direct : s.direct = none

/-- The transport owes no answer. -/
structure Unpended (s : State) : Prop where
  pend : s.pend = false
  inflight : s.inflight = none

/-- BUILD lies behind (R38(a), (b), (f)): no result yet, and the frame of the latched command in the TX space. -/
structure FrameReady (s : State) : Prop where
  resKind : s.resKind = .none
  length : s.txlen = frameLen s.op
  bytes : s.txFrame = some s.builtFrame
  lum : s.op = .set → s.lum = clamp s.raw

section Positions

variable {s : State}

theorem spaces_of_inv (hi : Inv s) : Spaces s := ⟨hi.txSpace, hi.rxSpace, hi.noDirect⟩

theorem unpended_of_inv (hi : Inv s) (hw : s.st ≠ .writing) (hr : s.st ≠ .reading) : Unpended s := by
  have hp : s.pend = false := Bool.eq_false_iff.2 fun h => (hi.pendingStates h).elim hw hr
  exact ⟨hp, hi.nothingInFlight hp⟩

theorem frameReady_of_inv (hi : Inv s) (hf : St.framed s.st = true) : FrameReady s where
  resKind := hi.busyHasNoResult (by rw [State.busy, cmdReady_of_framed hf]; rfl)
  length := hi.frameLength hf
  bytes := hi.frameBytes hf
  lum ho := by
    have hget : s.st = .reading ∨ s.st = .decoding → s.op = .get := fun h => (hi.readingIsGet h).1
    refine (hi.luminanceInRange ?_).1
    cases hs : s.st <;> simp_all [St.framed, State.setBuilt]

theorem clamp_in_range {raw : Raw} {lum : Byte} (h : lum = clamp raw) : lum = clamp raw ∧ lum.toNat ≤ 100 :=
  ⟨h, h ▸ PacketCodec.clamp_le_hundred raw⟩

theorem inv_idle (hst : s.st = .idle) (hk : s.resKind = .none) (hp : Unpended s) (hs : Spaces s) : Inv s := by
  obtain ⟨hpend, hflight⟩ := hp
  obtain ⟨htx, hrx, hd⟩ := hs
  constructor <;> simp [hst, hk, hpend, hflight, htx, hrx, hd, St.framed, State.setBuilt]

theorem inv_building (hst : s.st = .building) (hk : s.resKind = .none) (hp : Unpended s) (hs : Spaces s) : Inv s := by
  obtain ⟨hpend, hflight⟩ := hp
  obtain ⟨htx, hrx, hd⟩ := hs
  constructor <;> simp [hst, hk, hpend, hflight, htx, hrx, hd, St.framed, State.setBuilt]

theorem inv_delaying (hst : s.st = .delaying) (hf : FrameReady s) (hp : Unpended s) (hs : Spaces s)
    (hcount : (s.op = .get ∧ (s.wrLeft = 0 ∨ s.wrLeft = 1)) ∨ (s.op = .set ∧ (s.wrLeft = 1 ∨ s.wrLeft = 2)))
    (hdly : s.dly.toNat ≤ s.cfg.delayTicks) : Inv s := by
  obtain ⟨hk, hlen, hbytes, hlum⟩ := hf
  obtain ⟨hpend, hflight⟩ := hp
  obtain ⟨htx, hrx, hd⟩ := hs
  constructor
  case luminanceInRange => exact fun h => clamp_in_range (hlum (by simp_all [State.setBuilt]))
  case delayingCount => exact fun _ => hcount
  all_goals simp [hst, hk, hlen, hbytes, hdly, hpend, hflight, htx, hrx, hd]

theorem inv_writing (hst : s.st = .writing) (hf : FrameReady s) (hs : Spaces s)
    (hcount : s.wrLeft = 1 ∨ (s.wrLeft = 2 ∧ s.op = .set))
    (hpend : Unpended s ∨ (s.pend = true ∧ s.inflight = some (.write s.builtFrame))) : Inv s := by
  obtain ⟨hk, hlen, hbytes, hlum⟩ := hf
  obtain ⟨htx, hrx, hd⟩ := hs
  constructor
  case luminanceInRange => exact fun h => clamp_in_range (hlum (by simp_all [State.setBuilt]))
  case writingCount => exact fun _ => hcount
  case nothingInFlight | writeInFlight => rcases hpend with ⟨hp, hflight⟩ | ⟨hp, hflight⟩ <;> simp [hp, hflight]
  all_goals simp [hst, hk, hlen, hbytes, htx, hrx, hd]

theorem inv_reading (hst : s.st = .reading) (hf : FrameReady s) (hs : Spaces s) (hget : s.op = .get ∧ s.wrLeft = 0)
    (hpend : Unpended s ∨ (s.pend = true ∧ s.inflight = some (.read s.cfg.respLen) ∧ s.rxbuf = [])) : Inv s := by
  obtain ⟨hk, hlen, hbytes, _⟩ := hf
  obtain ⟨htx, hrx, hd⟩ := hs
  constructor
  case nothingInFlight | readInFlight =>
    rcases hpend with ⟨hp, hflight⟩ | ⟨hp, hflight, hempty⟩ <;> simp_all
  all_goals simp [hst, hk, hlen, hbytes, hget, htx, hrx, hd, State.setBuilt]

theorem inv_decoding (hst : s.st = .decoding) (hf : FrameReady s) (hp : Unpended s) (hs : Spaces s)
    (hget : s.op = .get ∧ s.wrLeft = 0) : Inv s := by
  obtain ⟨hk, hlen, hbytes, _⟩ := hf
  obtain ⟨hpend, hflight⟩ := hp
  obtain ⟨htx, hrx, hd⟩ := hs
  constructor <;> simp [hst, hk, hlen, hbytes, hget, hpend, hflight, htx, hrx, hd, State.setBuilt]

theorem inv_done (hst : s.st = .done) (hp : Unpended s) (hs : Spaces s)
    (hk : (s.resKind = .value ∧ s.op = .get) ∨ (s.resKind = .ok ∧ s.op = .set))
    (hlum : s.op = .set → s.lum = clamp s.raw) : Inv s := by
  obtain ⟨hpend, hflight⟩ := hp
  obtain ⟨htx, hrx, hd⟩ := hs
  constructor
  case luminanceInRange => exact fun h => clamp_in_range (hlum (by simp_all [State.setBuilt]))
  case doneKind => exact fun _ => hk
  all_goals simp [hst, hpend, hflight, htx, hrx, hd, St.framed, State.busy, State.cmdReady, quiescent]

theorem inv_failed (hst : s.st = .failed) (hp : Unpended s) (hs : Spaces s) (hk : isErrorKind s.resKind = true)
    (hset : s.op = .set → s.resKind = .connectionUnavailable ∨ (s.resKind = .writeFailed ∧ s.lum = clamp s.raw)) :
    Inv s := by
  obtain ⟨hpend, hflight⟩ := hp
  obtain ⟨htx, hrx, hd⟩ := hs
  constructor
  case luminanceInRange =>
    intro h
    obtain ⟨ho, hw⟩ : s.op = .set ∧ s.resKind = .writeFailed := by simpa [State.setBuilt, hst] using h
    rcases hset ho with hc | ⟨_, hlum⟩
    · simp [hc] at hw
    · exact clamp_in_range hlum
  case setFailure => exact fun _ ho => (hset ho).imp_right And.left
  all_goals simp [hst, hk, hpend, hflight, htx, hrx, hd, St.framed, State.busy, State.cmdReady, quiescent]

end Positions

/-! ## Each step keeps the invariant -/

section Steps

variable {u t : State}

theorem inv_reset (u : State) : Inv u.applyReset :=
  inv_idle rfl rfl ⟨rfl, rfl⟩ ⟨⟨rfl, rfl⟩, ⟨rfl, rfl⟩, rfl⟩

/-- A ready engine awaits nothing, so that the request that begins, or fails at once, awaits nothing (R91, R92). -/
theorem inv_accept (hi : Inv u) (op : CmdOp) (v : Raw) : Inv (u.accept op v) := by
  have hidle : u.cmdReady = true → Unpended u := fun hr =>
    unpended_of_inv hi (fun h => by simp [State.cmdReady, h, quiescent] at hr)
      (fun h => by simp [State.cmdReady, h, quiescent] at hr)
  obtain ⟨htx, hrx, hd⟩ := spaces_of_inv hi
  rcases accept_cases u op v with ⟨hr, _, h⟩ | ⟨hr, _, h⟩ | ⟨_, h⟩ <;> rw [h]
  · obtain ⟨hp, hflight⟩ := hidle hr
    exact inv_building rfl rfl ⟨hp, hflight⟩ ⟨htx, hrx, hd⟩
  · obtain ⟨hp, hflight⟩ := hidle hr
    exact inv_failed rfl ⟨hp, hflight⟩ ⟨htx, hrx, hd⟩ rfl fun _ => .inl rfl
  · exact hi

theorem build_lum_of_set (ho : u.op = .set) : u.build.lum = clamp u.raw := by
  have hlum : u.build.lum = lumAfterBuild u.op u.raw u.lum := rfl
  rw [hlum, ho]
  rfl

/-- After BUILD the frame is that of the latched command (R93). -/
theorem frameReady_build (hi : Inv u) (hs : u.st = .building) : FrameReady u.build where
  resKind := hi.busyHasNoResult (by simp [State.busy, State.cmdReady, hs, quiescent])
  length := by
    have hlen : u.build.txlen = BitVec.ofNat 3 u.builtFrame.length := rfl
    have hop : u.build.op = u.op := rfl
    rw [hlen, hop, State.builtFrame, requestFrame_length]
    cases u.op <;> rfl
  bytes := txFrame_loadFrame u u.builtFrame hi.txSpace.1 (requestFrame_length_le _ _ _)
  lum ho := build_lum_of_set ho

theorem inv_build (hi : Inv u) (hs : u.st = .building) : Inv u.build := by
  obtain ⟨hp, hflight⟩ := unpended_of_inv hi (by simp [hs]) (by simp [hs])
  have htx := loadFrame_txSpace u u.builtFrame hi.txSpace.1 hi.txSpace.2 (requestFrame_length_le _ _ _)
  refine inv_delaying rfl (frameReady_build hi hs) ⟨hp, hflight⟩ ⟨htx, hi.rxSpace, hi.noDirect⟩ ?_
    (dlyLoad_toNat u.cfg).le
  have hop : u.build.op = u.op := rfl
  have hleft : u.build.wrLeft = writesFor u.op := rfl
  rw [hop, hleft]
  cases u.op <;> simp [writesFor, nWrGet, nWrSet]

theorem inv_countTick (hi : Inv u) (hs : u.st = .delaying) : Inv u.countTick := by
  rcases countTick_cases u with ⟨_, h⟩ | ⟨_, h, hsub⟩ <;> rw [h]
  · exact hi
  · obtain ⟨hk, hlen, hbytes, hlum⟩ := frameReady_of_inv hi (by rw [hs]; rfl)
    obtain ⟨hp, hflight⟩ := unpended_of_inv hi (by simp [hs]) (by simp [hs])
    refine inv_delaying hs ⟨hk, hlen, hbytes, hlum⟩ ⟨hp, hflight⟩ ⟨hi.txSpace, hi.rxSpace, hi.noDirect⟩
      (hi.delayingCount hs) ?_
    have hbound := hi.delayBound hs
    simp only [hsub]
    omega

/-- The writes left decide which transaction comes, and only a GET has none left (R38(c), (d), R95). -/
theorem inv_expire (hi : Inv u) (hs : u.st = .delaying) : Inv u.expire := by
  obtain ⟨hk, hlen, hbytes, hlum⟩ := frameReady_of_inv hi (by rw [hs]; rfl)
  obtain ⟨hp, hflight⟩ := unpended_of_inv hi (by simp [hs]) (by simp [hs])
  have hcount := hi.delayingCount hs
  rcases expire_cases u with ⟨_, hw, h⟩ | ⟨_, hw, h⟩ | ⟨_, h⟩ <;> rw [h]
  · have hget : u.op = .get := by simpa [hw] using hcount
    exact inv_reading rfl ⟨hk, hlen, hbytes, hlum⟩ ⟨hi.txSpace, hi.rxSpace, hi.noDirect⟩ ⟨hget, hw⟩
      (.inl ⟨hp, hflight⟩)
  · have hleft : u.wrLeft = 1 ∨ (u.wrLeft = 2 ∧ u.op = .set) := by
      rcases hcount with ⟨_, h0 | h1⟩ | ⟨hset, h1 | h2⟩
      · exact absurd h0 hw
      · exact .inl h1
      · exact .inl h1
      · exact .inr ⟨h2, hset⟩
    exact inv_writing rfl ⟨hk, hlen, hbytes, hlum⟩ ⟨hi.txSpace, hi.rxSpace, hi.noDirect⟩ hleft (.inl ⟨hp, hflight⟩)
  · exact hi

theorem inv_writeIssue (hi : Inv u) (hs : u.st = .writing) {f : List Byte} (hframe : u.txFrame = some f) :
    Inv (u.issue (.write f)) := by
  obtain ⟨hk, hlen, hbytes, hlum⟩ := frameReady_of_inv hi (by rw [hs]; rfl)
  obtain rfl : f = u.builtFrame := Option.some.inj (hframe.symm.trans hbytes)
  exact inv_writing hs ⟨hk, hlen, hbytes, hlum⟩ ⟨hi.txSpace, hi.rxSpace, hi.noDirect⟩ (hi.writingCount hs)
    (.inr ⟨rfl, rfl⟩)

/-- A write that goes on leaves a GET with none to do and a SET with one (R38(c), R97). -/
theorem count_after_write (hi : Inv u) (hs : u.st = .writing) (hgo : u.wrLeft - 1 ≠ 0 ∨ u.op = .get) :
    (u.op = .get ∧ u.wrLeft = 1) ∨ (u.op = .set ∧ u.wrLeft = 2) := by
  rcases hi.writingCount hs with h1 | ⟨h2, hset⟩
  · exact .inl ⟨by simpa [h1] using hgo, h1⟩
  · exact .inr ⟨hset, h2⟩

theorem inv_writeAnswer (hi : Inv u) (hs : u.st = .writing) (h : writeAnswer u = .next t) : Inv t := by
  obtain ⟨hk, hlen, hbytes, hlum⟩ := frameReady_of_inv hi (by rw [hs]; rfl)
  obtain ⟨htx, hrx, hd⟩ := spaces_of_inv hi
  obtain ⟨f, _, ⟨_, rfl⟩ | ⟨_, _, hgo, rfl⟩ | ⟨_, _, _, hset, rfl⟩⟩ := writeAnswer_cases u t h
  · exact inv_failed rfl ⟨rfl, rfl⟩ ⟨htx, hrx, hd⟩ rfl fun ho => .inr ⟨rfl, hlum ho⟩
  · refine inv_delaying rfl ⟨hk, hlen, hbytes, hlum⟩ ⟨rfl, rfl⟩ ⟨htx, hrx, hd⟩ ?_ (dlyLoad_toNat u.cfg).le
    rcases count_after_write hi hs hgo with ⟨ho, hw⟩ | ⟨ho, hw⟩ <;> simp [ho, hw]
  · exact inv_done rfl ⟨rfl, rfl⟩ ⟨htx, hrx, hd⟩ (.inr ⟨rfl, hset⟩) hlum

theorem inv_readIssue (hi : Inv u) (hs : u.st = .reading) : Inv ((u.setRx []).issue (.read u.cfg.respLen)) := by
  obtain ⟨hk, hlen, hbytes, hlum⟩ := frameReady_of_inv hi (by rw [hs]; rfl)
  exact inv_reading hs ⟨hk, hlen, hbytes, hlum⟩ ⟨hi.txSpace, ⟨rfl, rfl⟩, hi.noDirect⟩ (hi.readingIsGet (.inl hs))
    (.inr ⟨rfl, rfl, rfl⟩)

theorem inv_readAnswer (hi : Inv u) (hs : u.st = .reading) (h : readAnswer u = .next t) : Inv t := by
  obtain ⟨hk, hlen, hbytes, hlum⟩ := frameReady_of_inv hi (by rw [hs]; rfl)
  obtain ⟨htx, hrx, hd⟩ := spaces_of_inv hi
  obtain ⟨hget, hw⟩ := hi.readingIsGet (.inl hs)
  obtain ⟨hl, ⟨_, rfl⟩ | ⟨_, rfl⟩⟩ := readAnswer_cases u t h
  · exact inv_failed rfl ⟨rfl, rfl⟩ ⟨htx, hrx, hd⟩ rfl fun ho => absurd (hget.symm.trans ho) (by decide)
  · have hfilled := And.intro (memory_writeList_wf u.xrData u.rxbuf 0 hrx.1)
      (memory_writeList_below _ u.xrData u.rxbuf 0 hrx.2 (by omega))
    exact inv_decoding rfl ⟨hk, hlen, hbytes, hlum⟩ ⟨rfl, rfl⟩ ⟨htx, hfilled, hd⟩ ⟨hget, hw⟩

theorem inv_decodeStep (hi : Inv u) (hs : u.st = .decoding) : Inv u.decodeStep := by
  obtain ⟨hp, hflight⟩ := unpended_of_inv hi (by simp [hs]) (by simp [hs])
  obtain ⟨htx, hrx, hd⟩ := spaces_of_inv hi
  obtain ⟨hget, _⟩ := hi.readingIsGet (.inr hs)
  have hnoset : u.op ≠ .set := by simp [hget]
  rcases decodeStep_cases u with ⟨_, h⟩ | ⟨_, h⟩ <;> rw [h]
  · exact inv_done rfl ⟨hp, hflight⟩ ⟨htx, hrx, hd⟩ (.inl ⟨rfl, hget⟩) fun ho => absurd ho hnoset
  · exact inv_failed rfl ⟨hp, hflight⟩ ⟨htx, hrx, hd⟩ rfl fun ho => absurd ho hnoset

theorem inv_microOperation (hi : Inv u) (hh : u.turn ≠ .host) (h : exec (instrOfSt u.st) u = .next t) : Inv t := by
  rcases sequencer_cases u t hh h with rfl | ⟨hs, _, rfl⟩ | ⟨hs, _, rfl⟩ | ⟨hs, _, rfl⟩ | ⟨hs, _, _, f, hf, rfl⟩ |
    ⟨hs, _, _, hw⟩ | ⟨hs, _, _, rfl⟩ | ⟨hs, _, _, hr⟩ | ⟨hs, _, rfl⟩
  · exact hi
  · exact inv_build hi hs
  · exact inv_countTick hi hs
  · exact inv_expire hi hs
  · exact inv_writeIssue hi hs hf
  · exact inv_writeAnswer hi hs hw
  · exact inv_readIssue hi hs
  · exact inv_readAnswer hi hs hr
  · exact inv_decodeStep hi hs

end Steps

/-- Settles O42: reset enters a safe `Idle`, an offer begins a request or is ignored, and every other move runs one
micro-operation. -/
theorem everyStepKeepsTheInvariant : Obligations.EveryStepKeepsTheInvariant := by
  intro s t hi h
  rcases step_cases s t hi.noDirect h with ⟨_, rfl⟩ | ⟨w, a, _, rfl⟩ | ⟨hm, _, hx⟩
  · exact inv_reset _
  · exact inv_accept (inv_drive hi _) _ _
  · exact inv_microOperation (u := s.drive s.nextMove) (inv_drive hi _) (drive_turn_ne_host s _ hm) hx

/-! ## The transition table (R104) -/

/-- Driving the ports changes no register (R34). -/
theorem sameRegisters_drive (s : State) (m : Move) : SameRegisters s (s.drive m) := by
  simp [SameRegisters]

section Moves

variable {m : Move}

theorem move_eq_engine (h : m.turn = .engine) (hr : m ≠ .rst) : m = .engine := by
  cases m <;> simp_all [Move.turn]

theorem move_eq_tick (h : m.turn = .tick) : m = .tick := by
  cases m <;> simp_all [Move.turn]

theorem move_eq_writeDone (h : m.turn = .writeDone) : ∃ c, m = .writeDone c := by
  cases m <;> simp_all [Move.turn]

theorem move_eq_readDone (h : m.turn = .readDone) : ∃ c d, m = .readDone c d := by
  cases m <;> simp_all [Move.turn]

end Moves

section Rows

variable {s t : State}

/-- The two rows of ACCEPT, and the busy engine that ignores the offer (R91, R92). -/
theorem row_of_accept (s : State) (w : CmdWord) (a : Bool) (op : CmdOp) (v : Raw) :
    TransitionRow s (.offer w a) ((s.drive (.offer w a)).accept op v) ∨
      SameRegisters s ((s.drive (.offer w a)).accept op v) := by
  rcases accept_cases (s.drive (.offer w a)) op v with ⟨hr, ha, h⟩ | ⟨hr, ha, h⟩ | ⟨_, h⟩ <;> rw [h]
  · obtain rfl : a = true := ha
    exact .inl (.inl ⟨hr, ⟨w, rfl⟩, rfl⟩)
  · obtain rfl : a = false := ha
    exact .inl (.inr (.inl ⟨hr, ⟨w, rfl⟩, rfl⟩))
  · exact .inr (sameRegisters_drive s _)

theorem row_of_build (hs : s.st = .building) : TransitionRow s .engine (s.drive .engine).build := by
  simp [TransitionRow, hs, build_eq]

theorem row_of_countTick (hs : s.st = .delaying) :
    TransitionRow s .tick (s.drive .tick).countTick ∨ SameRegisters s (s.drive .tick).countTick := by
  rcases countTick_cases (s.drive .tick) with ⟨_, h⟩ | ⟨hz, h, _⟩ <;> rw [h]
  · exact .inr (sameRegisters_drive s _)
  · have hdly : s.dly ≠ 0 := hz
    exact .inl (by simpa [TransitionRow, hs] using hdly)

theorem row_of_expire (hs : s.st = .delaying) :
    TransitionRow s .engine (s.drive .engine).expire ∨ SameRegisters s (s.drive .engine).expire := by
  rcases expire_cases (s.drive .engine) with ⟨hz, hw, h⟩ | ⟨hz, hw, h⟩ | ⟨_, h⟩ <;> rw [h]
  · have hdly : s.dly = 0 := hz
    have hleft : s.wrLeft = 0 := hw
    exact .inl (by simp [TransitionRow, hs, hdly, hleft])
  · have hdly : s.dly = 0 := hz
    have hleft : s.wrLeft ≠ 0 := hw
    exact .inl (by simpa [TransitionRow, hs, hdly] using hleft)
  · exact .inr (sameRegisters_drive s _)

/-- The three rows of WRITE answer (R97); in a safe state the count says which is a SET's last write. -/
theorem row_of_writeAnswer {c : Code} (hi : Inv s) (hs : s.st = .writing) (hp : s.pend = true)
    (h : writeAnswer (s.drive (.writeDone c)) = .next t) : TransitionRow s (.writeDone c) t := by
  obtain ⟨f, _, ⟨hc, rfl⟩ | ⟨hc, _, hgo, rfl⟩ | ⟨hc, hlast, hw, hset, rfl⟩⟩ := writeAnswer_cases _ t h
  · have hne : c ≠ 0 := hc
    simpa [TransitionRow, hs, hp] using hne
  · obtain rfl : c = 0 := hc
    have hcount : s.wrLeft = 2 ∨ s.op = .get :=
      (count_after_write hi hs hgo).symm.imp And.right And.left
    simpa [TransitionRow, hs, hp] using hcount
  · obtain rfl : c = 0 := hc
    have hone : s.wrLeft = 1 := sub_eq_zero.1 hlast
    have hop : s.op = .set := hset
    simp [TransitionRow, hs, hp, hone, hop]

theorem row_of_readAnswer {c : Code} {d : List Byte} (hs : s.st = .reading) (hp : s.pend = true)
    (h : readAnswer (s.drive (.readDone c d)) = .next t) : TransitionRow s (.readDone c d) t := by
  obtain ⟨_, ⟨hc, rfl⟩ | ⟨hc, rfl⟩⟩ := readAnswer_cases _ t h
  · have hne : c ≠ 0 := hc
    simpa [TransitionRow, hs, hp] using hne
  · obtain rfl : c = 0 := hc
    simp [TransitionRow, hs, hp]

theorem row_of_decodeStep (hs : s.st = .decoding) : TransitionRow s .engine (s.drive .engine).decodeStep := by
  rcases decodeStep_cases (s.drive .engine) with ⟨hsrc, h⟩ | ⟨hsrc, h⟩ <;> rw [h]
  · have hread : Memory.read s.rxbuf srcOff = displayAddr := hsrc
    simp [TransitionRow, hs, hread]
  · have hread : Memory.read s.rxbuf srcOff ≠ displayAddr := hsrc
    simp [TransitionRow, hs, hread]

theorem row_of_microOperation {m : Move} (hi : Inv s) (hr : m ≠ .rst) (ho : ∀ w a, m ≠ .offer w a)
    (h : exec (instrOfSt s.st) (s.drive m) = .next t) : TransitionRow s m t ∨ SameRegisters s t := by
  rcases sequencer_cases (s.drive m) t (drive_turn_ne_host s m ho) h with rfl | ⟨hs, ht, rfl⟩ | ⟨hs, ht, rfl⟩ |
    ⟨hs, ht, rfl⟩ | ⟨hs, ht, hp, f, _, rfl⟩ | ⟨hs, ht, hp, hw⟩ | ⟨hs, ht, hp, rfl⟩ | ⟨hs, ht, hp, hx⟩ | ⟨hs, ht, rfl⟩
  · exact .inr (sameRegisters_drive s m)
  · obtain rfl := move_eq_engine ht hr
    exact .inl (row_of_build hs)
  · obtain rfl := move_eq_tick ht
    exact row_of_countTick hs
  · obtain rfl := move_eq_engine ht hr
    exact row_of_expire hs
  · obtain rfl := move_eq_engine ht hr
    rw [drive_st] at hs
    rw [drive_pend] at hp
    exact .inl (by simp [TransitionRow, hs, hp])
  · obtain ⟨c, rfl⟩ := move_eq_writeDone ht
    exact .inl (row_of_writeAnswer hi hs hp hw)
  · obtain rfl := move_eq_engine ht hr
    rw [drive_st] at hs
    rw [drive_pend] at hp
    exact .inl (by simp [TransitionRow, hs, hp])
  · obtain ⟨c, d, rfl⟩ := move_eq_readDone ht
    exact .inl (row_of_readAnswer hs hp hx)
  · obtain rfl := move_eq_engine ht hr
    exact .inl (row_of_decodeStep hs)

end Rows

/-- Settles O45: an offer is one of the first two rows or ignored, and each micro-operation is a row of its own or waits. -/
theorem everyTransitionIsInTheTable : Obligations.EveryTransitionIsInTheTable := by
  intro s t hi hr h
  rcases step_cases s t hi.noDirect h with ⟨hrst, _⟩ | ⟨w, a, hm, rfl⟩ | ⟨ho, _, hx⟩
  · exact absurd hrst hr
  · rw [hm]
    exact row_of_accept s w a _ _
  · exact row_of_microOperation hi hr ho hx

/-! ## Runs that change no register (R105, R141, R142, R148(d)) -/

/-- From `s` to `t` every register, the history and the transaction in flight stayed as they were. -/
structure Unmoved (s t : State) : Prop where
  registers : SameRegisters s t
  hist : t.hist = s.hist
  inflight : t.inflight = s.inflight

/-- A move that the engine ignores: the ports are driven and nothing else happens. -/
def Ignored (s : State) : Prop := step s = .next (s.drive s.nextMove)

theorem Unmoved.refl (s : State) : Unmoved s s := ⟨by simp [SameRegisters], rfl, rfl⟩

theorem unmoved_drive (s : State) (m : Move) : Unmoved s (s.drive m) := ⟨sameRegisters_drive s m, rfl, rfl⟩

/-- A move is ignored when no command can be taken and the micro-operation of `st` has no rule for it. -/
theorem ignored_of_microOperation {s : State} (hd : s.direct = none) (hr : s.nextMove ≠ .rst)
    (ho : s.cmdReady = false ∨ ∀ w a, s.nextMove ≠ .offer w a)
    (hx : exec (instrOfSt s.st) (s.drive s.nextMove) = .next (s.drive s.nextMove)) : Ignored s := by
  rcases step_move s hd hr with ⟨w, a, hm, h⟩ | ⟨_, h⟩
  · rcases ho with hbusy | hno
    · exact h.trans (by rw [hm, accept_of_busy (u := s.drive (.offer w a)) hbusy])
    · exact absurd hm (hno w a)
  · exact h.trans hx

/-- While a condition holds that makes the engine ignore every move, and that outlasts it, a run of any length changes no
register. -/
theorem run_of_ignored {P : State → Prop} (hstep : ∀ s, P s → Ignored s) (hkeep : ∀ s m, P s → P (s.drive m)) (n : Nat)
    (s : State) (h : P s) : ∃ t, Host.Core.run core n s = .next t ∧ Unmoved s t ∧ P t ∧ t.sched = s.sched.drop n := by
  induction n generalizing s with
  | zero => exact ⟨s, rfl, .refl s, h, rfl⟩
  | succ n ih =>
    obtain ⟨t, hrun, ⟨hregs, hhist, hflight⟩, ht, hsched⟩ := ih _ (hkeep s s.nextMove h)
    refine ⟨t, (run_succ n s _ (hstep s h)).trans hrun, ⟨hregs, hhist, hflight⟩, ht, hsched.trans ?_⟩
    rw [drive_sched, List.drop_tail]

/-- What holds of every move to come and of the engine's own turn holds of the next move. -/
theorem nextMove_of_forall {s : State} {p : Move → Prop} (h : ∀ m ∈ s.sched, p m) (he : p .engine) : p s.nextMove := by
  unfold State.nextMove
  cases hs : s.sched with
  | nil => exact he
  | cons m ms => exact h m (by simp [hs])

theorem forall_mem_drive {s : State} {p : Move → Prop} (h : ∀ m ∈ s.sched, p m) (m : Move) :
    ∀ x ∈ (s.drive m).sched, p x :=
  fun x hx => h x (List.mem_of_mem_tail hx)

/-! ### Waiting for the host (R107, R141) -/

/-- A move that is neither of the host's two: no command is offered, and no reset is asserted. -/
abbrev Hostless (m : Move) : Prop := m ≠ .rst ∧ ∀ w a, m ≠ .offer w a

/-- A quiescent engine to which no command is offered. -/
structure Quiet (s : State) : Prop where
  direct : s.direct = none
  st : quiescent s.st = true
  moves : ∀ m ∈ s.sched, Hostless m

theorem execMicro_quiescent {u : State} (hq : quiescent u.st = true) : exec (instrOfSt u.st) u = .next u.quiesce := by
  rcases (quiescent_iff u.st).1 hq with h | h | h <;> rw [h] <;> rfl

theorem Quiet.ignored {s : State} (h : Quiet s) : Ignored s := by
  obtain ⟨hr, ho⟩ := nextMove_of_forall h.moves ⟨nofun, nofun⟩
  refine ignored_of_microOperation h.direct hr (.inr ho) ?_
  exact (execMicro_quiescent (u := s.drive s.nextMove) h.st).trans
    (congrArg _ (quiesce_of_not_host (drive_turn_ne_host s _ ho)))

theorem Quiet.drive {s : State} (h : Quiet s) (m : Move) : Quiet (s.drive m) :=
  ⟨h.direct, h.st, forall_mem_drive h.moves m⟩

/-- Settles O13: an engine in `Idle` without an offer is quiet. -/
theorem idleWaitsForTheHost : Obligations.IdleWaitsForTheHost := by
  intro n s hd hs hm
  obtain ⟨t, hrun, hu, _⟩ := run_of_ignored (fun _ => Quiet.ignored) (fun _ m h => h.drive m) n s ⟨hd, by rw [hs]; rfl, hm⟩
  exact ⟨t, hrun, hu.registers, hu.hist⟩

/-! ### Answers that are not awaited (R142, R148(d)) -/

section Strays

variable {u : State}

theorem execMicro_stray_write (ht : u.turn = .writeDone) (h : ¬ (u.st = .writing ∧ u.pend = true)) :
    exec (instrOfSt u.st) u = .next u := by
  cases hs : u.st with
  | idle | done | failed => exact congrArg _ (quiesce_of_not_host (by simp [ht]))
  | building | delaying | reading | decoding =>
    simp only [instrOfSt, exec, execStBuilding, execStDelaying, execStReading, execStDecoding, ht]
  | writing => exact execStWriting_stray_answer ht (Bool.eq_false_iff.2 fun hp => h ⟨hs, hp⟩)

theorem execMicro_stray_read (ht : u.turn = .readDone) (h : ¬ (u.st = .reading ∧ u.pend = true)) :
    exec (instrOfSt u.st) u = .next u := by
  cases hs : u.st with
  | idle | done | failed => exact congrArg _ (quiesce_of_not_host (by simp [ht]))
  | building | delaying | writing | decoding =>
    simp only [instrOfSt, exec, execStBuilding, execStDelaying, execStWriting, execStDecoding, ht]
  | reading => exact execStReading_stray_answer ht (Bool.eq_false_iff.2 fun hp => h ⟨hs, hp⟩)

end Strays

/-- Settles O51: an answer is no offer, and the micro-operation of `st` has no rule for one that is not awaited. -/
theorem strayAnswersAreIgnored : Obligations.StrayAnswersAreIgnored := by
  intro s c d hd
  have hunmoved := unmoved_drive s s.nextMove
  refine ⟨fun hm h => ⟨_, ?_, hunmoved.registers, hunmoved.hist, hunmoved.inflight⟩,
    fun hm h => ⟨_, ?_, hunmoved.registers, hunmoved.hist, hunmoved.inflight⟩⟩
  · exact ignored_of_microOperation hd (by simp [hm]) (.inr (by simp [hm]))
      (execMicro_stray_write (u := s.drive s.nextMove) (by simp [hm, Move.turn]) h)
  · exact ignored_of_microOperation hd (by simp [hm]) (.inr (by simp [hm]))
      (execMicro_stray_read (u := s.drive s.nextMove) (by simp [hm, Move.turn]) h)

/-! ### Waiting for the transport (R105, R135(d)) -/

section Hanging

variable {u : State}

theorem execStWriting_waits (hp : u.pend = true) (ht : u.turn ≠ .writeDone) : execStWriting u = .next u := by
  cases h : u.turn with
  | engine => exact execStWriting_engine_pending h hp
  | writeDone => exact absurd h ht
  | host | tick | readDone => simp only [execStWriting, h]

theorem execStReading_waits (hp : u.pend = true) (ht : u.turn ≠ .readDone) : execStReading u = .next u := by
  cases h : u.turn with
  | engine => exact execStReading_engine_pending h hp
  | readDone => exact absurd h ht
  | host | tick | writeDone => simp only [execStReading, h]

end Hanging

/-- The answer to a pending request of the state `st` comes at this turn (R97, R99). -/
def answerTurn : St → Option Turn
  | .writing => some .writeDone
  | .reading => some .readDone
  | .idle | .building | .delaying | .decoding | .done | .failed => none

/-- A request whose answer is not among the moves to come. -/
structure Hanging (s : State) : Prop where
  direct : s.direct = none
  pend : s.pend = true
  st : s.st = .writing ∨ s.st = .reading
  moves : ∀ m ∈ s.sched, m ≠ .rst ∧ some m.turn ≠ answerTurn s.st

theorem Hanging.ignored {s : State} (h : Hanging s) : Ignored s := by
  obtain ⟨hr, ht⟩ := nextMove_of_forall h.moves (by rcases h.st with hs | hs <;> simp [hs, answerTurn, Move.turn])
  have hbusy : s.cmdReady = false := by rcases h.st with hs | hs <;> simp [State.cmdReady, hs, quiescent]
  refine ignored_of_microOperation h.direct hr (.inl hbusy) ?_
  rcases h.st with hs | hs <;> rw [hs] at ht ⊢
  · exact execStWriting_waits (u := s.drive s.nextMove) h.pend fun he => ht (congrArg some he)
  · exact execStReading_waits (u := s.drive s.nextMove) h.pend fun he => ht (congrArg some he)

theorem Hanging.drive {s : State} (h : Hanging s) (m : Move) : Hanging (s.drive m) :=
  ⟨h.direct, h.pend, h.st, forall_mem_drive h.moves m⟩

/-- Settles O52: the request hangs, whichever transaction it is. -/
theorem unansweredRequestHangs : Obligations.UnansweredRequestHangs := by
  intro n s hd hp hr hwait
  have hmoves : ∀ m ∈ s.sched, some m.turn ≠ answerTurn s.st := by
    intro m hm he
    rcases hwait with ⟨hs, hno⟩ | ⟨hs, hno⟩ <;> rw [hs] at he
    · obtain ⟨c, rfl⟩ := move_eq_writeDone (Option.some.inj he)
      exact hno c hm
    · obtain ⟨c, d, rfl⟩ := move_eq_readDone (Option.some.inj he)
      exact hno c d hm
  have hhang : Hanging s := ⟨hd, hp, hwait.imp And.left And.left, fun m hm => ⟨hr m hm, hmoves m hm⟩⟩
  obtain ⟨t, hrun, hu, _⟩ := run_of_ignored (fun _ => Hanging.ignored) (fun _ m h => h.drive m) n s hhang
  exact ⟨t, hrun, hu.registers, hu.hist, hu.inflight⟩

/-! ## Taking a command (R91, R92, R107) -/

section Accepting

variable {s : State}

theorem accept_available (hr : s.cmdReady = true) (ha : s.xportAvail = true) (op : CmdOp) (v : Raw) :
    s.accept op v = { s.unspecify with op := op, raw := v, resKind := .none, st := .building }.emit (.accept op v true) := by
  rw [State.accept, if_pos hr, if_pos ha]

theorem accept_unavailable (hr : s.cmdReady = true) (ha : s.xportAvail = false) (op : CmdOp) (v : Raw) :
    s.accept op v =
      ({ s with op := op, raw := v }.emit (.accept op v false)).endRequest .connectionUnavailable none none .failed := by
  rw [State.accept, if_pos hr, if_neg (by simp [ha])]
  rfl

end Accepting

/-- Ending a request right after an event records the two in one update. -/
theorem endRequest_emit (u : State) (e : Event) (k : ResKind) (v : Option Byte) (c : Option Code) (f : St) :
    (u.emit e).endRequest k v c f = { u.endRequest k v c f with
      hist := u.hist ++ [e, .result k (v.getD (Config.freeByte u.free)) (c.getD (Config.freeCode u.free))] } := by
  have hhist := List.append_assoc u.hist [e]
    [.result k (v.getD (Config.freeByte u.free)) (c.getD (Config.freeCode u.free))]
  exact congrArg (fun h => ({ u.endRequest k v c f with hist := h } : State)) hhist

/-- Settles O22: both commands are ACCEPT, which a busy engine ignores. -/
theorem acceptLatchesTheCommand : Obligations.AcceptLatchesTheCommand := by
  refine fun s v => ⟨fun hr ha => ⟨⟨_, rfl, ?_⟩, ⟨_, rfl, ?_⟩⟩, fun hb => ⟨?_, ?_⟩⟩
  · rw [accept_available hr ha]; rfl
  · rw [accept_available hr ha]; rfl
  · exact congrArg _ (accept_of_busy hb .get v)
  · exact congrArg _ (accept_of_busy hb .set v)

/-- Settles O23: the acceptance and the error entry are one update. -/
theorem acceptWithoutTransportFails : Obligations.AcceptWithoutTransportFails := by
  refine fun s v hr ha => ⟨⟨_, rfl, ?_⟩, ⟨_, rfl, ?_⟩⟩
  · rw [accept_unavailable hr ha, endRequest_emit]; rfl
  · rw [accept_unavailable hr ha, endRequest_emit]; rfl

theorem quiesce_host {s : State} (ht : s.turn = .host) :
    s.quiesce = s.accept (cmdOpOf s.cmdWord) (cmdValueOf s.cmdWord) := by
  rcases quiesce_cases s with ⟨_, h⟩ | ⟨hne, _⟩
  · exact h
  · exact absurd ht hne

/-- Settles O38: the three micro-operations are one, which waits for the host and then takes the command. -/
theorem quiescentStatesWaitOrAccept : Obligations.QuiescentStatesWaitOrAccept := by
  refine fun s => ⟨fun ht => ?_, fun ht hr ha => ⟨s.quiesce, rfl, rfl, rfl, ?_⟩⟩
  · have hq : (.next s.quiesce : Result) = .next s := congrArg _ (quiesce_of_not_host ht)
    exact ⟨hq, hq, hq⟩
  · rw [quiesce_host ht, accept_available hr ha, cmdValueOf_eq_setWidth]
    exact ⟨rfl, rfl⟩

/-! ## BUILD and the delay (R93, R94, R95) -/

/-- The TX space after BUILD; `bytes` is the frame with the zeros after it. -/
theorem read_build {s : State} {bytes : List Byte} (hwf : Memory.wf s.txbuf = true)
    (hbytes : ∀ k < 6, s.builtFrame.getD k 0 = bytes.getD k 0) (k : Nat) :
    Memory.read s.build.txbuf k = if k < 6 then bytes.getD k 0 else Memory.read s.txbuf k := by
  obtain ⟨t, ht, _, hread⟩ := loadFrame_next s s.builtFrame bytes hwf (requestFrame_length_le _ _ _) hbytes
  cases ht
  exact hread k

theorem builtFrame_get_padded {s : State} (ho : s.op = .get) (k : Nat) (hk : k < 6) :
    s.builtFrame.getD k 0 = [0x82, 0x01, 0x10, s.cfg.ck0Get ^^^ 0x93, 0, 0].getD k 0 := by
  rw [State.builtFrame, ho, ← getCksum_eq]
  exact getFrame_padded _ k hk

theorem builtFrame_set {s : State} (ho : s.op = .set) :
    s.builtFrame = [0x84, 0x03, 0x10, 0x00, s.build.lum, s.cfg.ck0Set ^^^ 0x97 ^^^ s.build.lum] := by
  rw [State.builtFrame, build_lum_of_set ho, ho]
  exact (setFrameBytes s.cfg (clamp s.raw)).1

/-- Settles O27: BUILD loads the frame of the latched command, and the counter holds `DELAY_TICKS`. -/
theorem buildMakesTheFrame : Obligations.BuildMakesTheFrame := by
  intro s ht hwf
  refine ⟨fun ho => ⟨_, execStBuilding_engine ht, ?_, dlyLoad_toNat s.cfg, read_build hwf (builtFrame_get_padded ho)⟩,
    fun ho => ⟨_, execStBuilding_engine ht, ?_, dlyLoad_toNat s.cfg, ?_, ?_⟩⟩
  · rw [build_eq, State.builtFrame, ho]; rfl
  · rw [build_eq, State.builtFrame, ho]; rfl
  · rw [build_lum_of_set ho, clamp_toNat]
  · exact read_build hwf fun k _ => by rw [builtFrame_set ho]

theorem execMicro_tick_ignored {u : State} (ht : u.turn = .tick) (hs : u.st ≠ .delaying) :
    exec (instrOfSt u.st) u = .next u := by
  cases h : u.st with
  | idle | done | failed => exact congrArg _ (quiesce_of_not_host (by simp [ht]))
  | building | writing | reading | decoding =>
    simp only [instrOfSt, exec, execStBuilding, execStWriting, execStReading, execStDecoding, ht]
  | delaying => exact absurd h hs

/-- Settles O28: only `Delaying` has a rule for a tick. -/
theorem tickCountsOnlyInDelaying : Obligations.TickCountsOnlyInDelaying := by
  intro s ht
  by_cases hs : s.st = .delaying
  · have hx : exec (instrOfSt s.st) s = .next s.countTick := by rw [hs]; exact execStDelaying_tick ht
    rw [hx]
    rcases countTick_cases s with ⟨hz, h⟩ | ⟨hz, h, _⟩ <;> rw [h]
    · rw [if_neg fun hand => hand.2 hz]
    · rw [if_pos ⟨hs, hz⟩]
  · rw [if_neg fun hand => hs hand.1]
    exact execMicro_tick_ignored ht hs

/-- Settles O29: the three cases of DELAY expiry. -/
theorem delayExpiryChoosesTheTransaction : Obligations.DelayExpiryChoosesTheTransaction := by
  intro s ht
  rw [exec, execStDelaying_engine ht]
  rcases expire_cases s with ⟨hz, hw, h⟩ | ⟨hz, hw, h⟩ | ⟨hz, h⟩ <;> rw [h]
  · exact ⟨fun _ hne => absurd hw hne, fun _ _ => rfl, fun hne => absurd hz hne⟩
  · exact ⟨fun _ _ => rfl, fun _ h0 => absurd h0 hw, fun hne => absurd hz hne⟩
  · exact ⟨fun h0 => absurd h0 hz, fun h0 => absurd h0 hz, fun _ => rfl⟩

/-! ## The write (R96, R97) -/

/-- Settles O30: the frame handed over is the current one, in a safe state the one built. -/
theorem writeIssueHandsOverTheFrame : Obligations.WriteIssueHandsOverTheFrame := by
  refine fun s ht hp hl => ⟨execStWriting_engine_issue ht hp (txFrame_eq s hl), fun hi hs => ⟨?_, ?_⟩⟩
  · exact Option.some.inj ((txFrame_eq s hl).symm.trans (hi.frameBytes (by rw [hs]; rfl)))
  · rw [hi.frameLength (by rw [hs]; rfl)]
    cases s.op <;> rfl

section WriteAnswer

variable {u : State} {f : List Byte}

theorem writeAnswer_of_failure (hf : u.txFrame = some f) (hc : u.xwStatus ≠ 0) :
    writeAnswer u = .next
      ((u.answered.emit (.write f u.xwStatus)).endRequest .writeFailed none (some u.xwStatus) .failed) := by
  have hfailed : statusFailed u.xwStatus = true := bne_iff_ne.2 hc
  simp only [writeAnswer, hf, if_pos hfailed, raise_eq]

theorem writeAnswer_of_more (hf : u.txFrame = some f) (hc : u.xwStatus = 0) (hw : u.wrLeft ≠ 0)
    (hgo : u.wrLeft - 1 ≠ 0 ∨ u.op = .get) :
    writeAnswer u = .next { u.answered.emit (.write f 0) with wrLeft := u.wrLeft - 1 }.enterDelay := by
  obtain ⟨t, ht⟩ := exists_next_writeAnswer hf hw
  obtain ⟨g, hg, ⟨hne, _⟩ | ⟨_, _, _, rfl⟩ | ⟨_, hlast, _, hset, _⟩⟩ := writeAnswer_cases u t ht
  · exact absurd hc hne
  · obtain rfl : f = g := Option.some.inj (hf.symm.trans hg)
    exact ht
  · exact absurd hlast (hgo.resolve_right (by simp [hset]))

theorem writeAnswer_of_last (hf : u.txFrame = some f) (hc : u.xwStatus = 0) (hw : u.wrLeft = 1) (ho : u.op = .set) :
    writeAnswer u = .next (({ u with wrLeft := 0 }.answered.emit (.write f 0)).endRequest .ok none none .done) := by
  obtain ⟨t, ht⟩ := exists_next_writeAnswer hf (by simp [hw])
  obtain ⟨g, hg, ⟨hne, _⟩ | ⟨_, _, hgo, _⟩ | ⟨_, hlast, _, _, rfl⟩⟩ := writeAnswer_cases u t ht
  · exact absurd hc hne
  · simp [hw, ho] at hgo
  · obtain rfl : f = g := Option.some.inj (hf.symm.trans hg)
    rw [hlast] at ht
    exact ht

end WriteAnswer

/-- Settles O32: the three outcomes, each with the current frame recorded. -/
theorem writeAnswerOutcomes : Obligations.WriteAnswerOutcomes := by
  intro s ht hp hl
  have hf := txFrame_eq s hl
  rw [exec, execStWriting_answer ht hp]
  refine ⟨fun hc => ⟨_, writeAnswer_of_failure hf hc, ?_⟩,
    fun hc hw hgo => ⟨writeAnswer_of_more hf hc hw hgo, dlyLoad_toNat s.cfg⟩,
    fun hc hw ho => ⟨_, writeAnswer_of_last hf hc hw ho, ?_⟩⟩
  · rw [endRequest_emit]; rfl
  · rw [endRequest_emit]; rfl

/-! ## The read (R98, R99, R100) -/

/-- Settles O33: the empty list of cells is the zero-filled buffer. -/
theorem readIssueZeroFillsAndAsks : Obligations.ReadIssueZeroFillsAndAsks := fun s ht hp =>
  ⟨_, execStReading_engine_issue ht hp, rfl, memory_read_nil, respLen_bounds s.cfg⟩

section ReadAnswer

variable {u : State}

theorem readAnswer_of_failure (hl : u.xrData.length ≤ u.cfg.respLen) (hc : u.xrStatus ≠ 0) :
    readAnswer u = .next ((u.answered.emit (.read u.cfg.respLen u.xrStatus u.xrData)).endRequest .readFailed none
      (some u.xrStatus) .failed) := by
  have hfailed : statusFailed u.xrStatus = true := bne_iff_ne.2 hc
  simp only [readAnswer, State.fillRx, if_pos hl, if_pos hfailed, raise_eq]

theorem readAnswer_of_success (hl : u.xrData.length ≤ u.cfg.respLen) (hc : u.xrStatus = 0) :
    readAnswer u = .next ({ u.setRx (Memory.writeList u.rxbuf 0 u.xrData) with st := .decoding }.answered.emit
      (.read u.cfg.respLen 0 u.xrData)) := by
  simp [readAnswer, State.fillRx, hl, statusFailed, hc]

end ReadAnswer

/-- Settles O34: a failed read leaves `rxbuf`, a successful one overwrites its first bytes. -/
theorem readAnswerOutcomes : Obligations.ReadAnswerOutcomes := by
  intro s ht hp
  rw [exec, execStReading_answer ht hp]
  refine ⟨fun hl hc => ⟨_, readAnswer_of_failure hl hc, ?_⟩,
    fun hl hc hwf => ⟨_, readAnswer_of_success hl hc, rfl, fun k => ?_⟩⟩
  · rw [endRequest_emit]; rfl
  · simpa using memory_read_writeList s.xrData s.rxbuf 0 k hwf

/-- Settles O36: DECODE's two cases, the source byte being the display's address. -/
theorem decodeStepOutcomes : Obligations.DecodeStepOutcomes := by
  intro s ht
  rw [exec, execStDecoding_engine ht]
  rcases decodeStep_cases s with ⟨hsrc, h⟩ | ⟨hsrc, h⟩ <;> rw [h]
  · exact ⟨fun _ => ⟨_, rfl, rfl⟩, fun hne => absurd hsrc hne⟩
  · exact ⟨fun he => absurd he hsrc, fun _ => ⟨_, rfl, rfl⟩⟩

/-! ## A whole command against its reference procedure (R101, R102, R106; log 24)

A run of a command is followed from one position of the request to the next. A position says where the request stands, what has
been recorded since its acceptance, and which moves are still to come; each rule of R93 to R100 leads from one position to
another or to an end, and an ended request ignores the moves that are left. -/

/-- One step that uses up one move of the list. -/
structure Moves (s t : State) : Prop where
  some_move : s.sched ≠ []
  sched : t.sched = s.sched.tail
  step : step s = .next t

/-- The agents' moves lead from `s` to `t`. -/
abbrev Leads : State → State → Prop := Relation.ReflTransGen Moves

/-- A state that has used up all its moves is the outcome of the run of that many steps. -/
theorem run_of_leads {s t : State} (h : Leads s t) (ht : t.sched = []) :
    Host.Core.run core s.sched.length s = .next t := by
  induction h using Relation.ReflTransGen.head_induction_on with
  | refl => rw [ht]; rfl
  | @head s u hm _ ih =>
    obtain ⟨m, ms, hs⟩ := List.exists_cons_of_ne_nil hm.some_move
    have hlen : s.sched.length = u.sched.length + 1 := by rw [hm.sched, hs]; rfl
    rw [hlen, run_succ _ s u hm.step, ih]

/-- What is fixed for one request: the build, the latched command, and the history before its acceptance. -/
structure Request where
  cfg : Config
  op : CmdOp
  raw : Raw
  before : List Event

/-- The frame that the request sends (R93). -/
def Request.frame (q : Request) : List Byte := requestFrame q.cfg q.op q.raw

/-- The request stands in the sequencer state `st`; `evs` has been recorded since its acceptance, and `ms` is to come. -/
structure Request.At (q : Request) (st : St) (evs : List Event) (ms : List Move) (s : State) : Prop where
  inv : Inv s
  cfg : s.cfg = q.cfg
  op : s.op = q.op
  raw : s.raw = q.raw
  st : s.st = st
  hist : s.hist = q.before ++ .accept q.op q.raw true :: evs
  sched : s.sched = ms

/-- A delay of the request begins, with `left` writes still to do. -/
structure Request.Delaying (q : Request) (left : BitVec 2) (evs : List Event) (ms : List Move) (s : State) : Prop where
  pos : q.At .delaying evs ms s
  left : s.wrLeft = left
  dly : s.dly.toNat = q.cfg.delayTicks

/-- The request, accepted with `xport_avail` = `avail`, has ended with the result and the history of `r`. -/
structure Request.Ends (q : Request) (avail : Bool) (r : RefResult) (s : State) : Prop where
  direct : s.direct = none
  valid : s.resValid = true
  kind : s.resKind = r.kind
  value : ∀ b, r.value = some b → s.resValue = b
  code : ∀ c, r.code = some c → s.resCode = c
  hist : s.hist = q.before ++ .accept q.op q.raw avail :: (r.events ++ [s.resultEvent])

/-- Its moves take `s` to an end of the request with the result and the history of `r`. -/
def Request.Completes (q : Request) (avail : Bool) (r : RefResult) (s : State) : Prop :=
  ∃ t, Leads s t ∧ t.sched = [] ∧ q.Ends avail r t

section Ends

variable {q : Request} {avail : Bool}

theorem Request.Completes.of_leads {r : RefResult} {s u : State} (h : q.Completes avail r u) (hlead : Leads s u) :
    q.Completes avail r s := by
  obtain ⟨t, hrest, hend⟩ := h
  exact ⟨t, hlead.trans hrest, hend⟩

theorem ends_endRequest {u : State} {evs : List Event} {k : ResKind} {v : Option Byte} {c : Option Code} {f : St}
    (hd : u.direct = none) (hf : ended f = true) (hh : u.hist = q.before ++ .accept q.op q.raw avail :: evs) :
    q.Ends avail ⟨k, v, c, evs⟩ (u.endRequest k v c f) where
  direct := hd
  valid := hf
  kind := rfl
  value b hb := by simp [show v = some b from hb]
  code b hb := by simp [show c = some b from hb]
  hist := by simp [hh, State.resultEvent]

theorem ended_quiescent {st : St} (h : ended st = true) : quiescent st = true := by
  rcases (ended_iff st).1 h with rfl | rfl <;> rfl

theorem Request.Ends.drive {r : RefResult} {s : State} (h : q.Ends avail r s) (m : Move) : q.Ends avail r (s.drive m) :=
  ⟨h.direct, h.valid, h.kind, h.value, h.code, h.hist⟩

/-- An ended request keeps its result and its history over the moves that are left (R107). -/
theorem Request.Ends.completes {r : RefResult} {ms : List Move} {s : State} (h : q.Ends avail r s) (hs : s.sched = ms)
    (hm : ∀ m ∈ ms, Hostless m) : q.Completes avail r s := by
  induction ms generalizing s with
  | nil => exact ⟨s, .refl, hs, h⟩
  | cons m ms ih =>
    have hstep : Ignored s := Quiet.ignored ⟨h.direct, ended_quiescent h.valid, hs ▸ hm⟩
    exact (ih (h.drive s.nextMove) (by simp [hs]) fun x hx => hm x (List.mem_cons_of_mem m hx)).of_leads
      (.single ⟨by simp [hs], rfl, hstep⟩)

end Ends

section Positions

variable {q : Request} {st : St} {evs : List Event} {m : Move} {ms : List Move} {s t : State}

theorem Request.At.txFrame (h : q.At st evs ms s) (hf : St.framed st = true) : s.txFrame = some q.frame := by
  rw [h.inv.frameBytes (by rw [h.st]; exact hf), State.builtFrame, h.cfg, h.op, h.raw]
  rfl

/-- The next step of a request runs the micro-operation of its state. -/
theorem Request.At.step_eq (h : q.At st evs (m :: ms) s) (hhostless : Hostless m) :
    step s = exec (instrOfSt st) (s.drive m) := by
  obtain ⟨hr, ho⟩ := hhostless
  have hm : s.nextMove = m := by simp [State.nextMove, h.sched]
  rcases step_move s h.inv.noDirect (hm ▸ hr) with ⟨w, a, hoffer, _⟩ | ⟨_, hs⟩
  · exact absurd (hm.symm.trans hoffer) (ho w a)
  · rw [hs, hm, h.st]

theorem Request.At.moves (h : q.At st evs (m :: ms) s) (hstep : step s = .next t) (hsched : t.sched = s.sched.tail) :
    Moves s t :=
  ⟨by simp [h.sched], hsched, hstep⟩

/-- A step inside the request leads to its next position: what it records is added, and the invariant is kept. -/
theorem Request.At.next {st' : St} {new : List Event} (h : q.At st evs (m :: ms) s) (hstep : step s = .next t)
    (hcmd : t.cfg = s.cfg ∧ t.op = s.op ∧ t.raw = s.raw) (hst : t.st = st') (hhist : t.hist = s.hist ++ new)
    (hsched : t.sched = s.sched.tail) : q.At st' (evs ++ new) ms t := by
  obtain ⟨hcfg, hop, hraw⟩ := hcmd
  refine ⟨everyStepKeepsTheInvariant s t h.inv hstep, hcfg.trans h.cfg, hop.trans h.op, hraw.trans h.raw, hst, ?_, ?_⟩
  · rw [hhist, h.hist, List.append_assoc, List.cons_append]
  · rw [hsched, h.sched]; rfl

theorem Request.At.next_silent {st' : St} (h : q.At st evs (m :: ms) s) (hstep : step s = .next t)
    (hcmd : t.cfg = s.cfg ∧ t.op = s.op ∧ t.raw = s.raw) (hst : t.st = st') (hhist : t.hist = s.hist)
    (hsched : t.sched = s.sched.tail) : q.At st' evs ms t := by
  simpa using h.next (new := []) hstep hcmd hst (by simpa using hhist) hsched

/-! ### BUILD and one delay (R93, R94, R95) -/

theorem Request.At.build (h : q.At .building evs (.engine :: ms) s) :
    ∃ t, Leads s t ∧ q.Delaying (writesFor q.op) evs ms t := by
  have hstep : step s = .next (s.drive .engine).build :=
    (h.step_eq ⟨nofun, nofun⟩).trans (execStBuilding_engine (u := s.drive .engine) rfl)
  have hpos := h.next_silent hstep ⟨rfl, rfl, rfl⟩ rfl rfl rfl
  exact ⟨_, .single (h.moves hstep rfl), hpos, congrArg writesFor h.op, (dlyLoad_toNat s.cfg).trans (by rw [h.cfg])⟩

/-- The counter's ticks, one by one (R94). -/
theorem Request.At.ticks {n : Nat} (h : q.At .delaying evs (List.replicate n .tick ++ ms) s) (hn : s.dly.toNat = n) :
    ∃ t, Leads s t ∧ q.At .delaying evs ms t ∧ t.dly = 0 ∧ t.wrLeft = s.wrLeft := by
  induction n generalizing s with
  | zero => exact ⟨s, .refl, h, BitVec.eq_of_toNat_eq (by simpa using hn), rfl⟩
  | succ n ih =>
    have hstep : step s = .next (s.drive .tick).countTick :=
      (h.step_eq ⟨nofun, nofun⟩).trans (execStDelaying_tick (u := s.drive .tick) rfl)
    rcases countTick_cases (s.drive .tick) with ⟨hz, _⟩ | ⟨_, ht, hsub⟩
    · have hzero : s.dly = 0 := hz
      simp [hzero] at hn
    · rw [ht] at hstep
      have hpos := h.next_silent hstep ⟨rfl, rfl, rfl⟩ h.st rfl rfl
      have hpred : s.dly.toNat - 1 = n := by omega
      obtain ⟨t, hlead, hend⟩ := ih hpos (hsub.trans hpred)
      exact ⟨t, .head (h.moves hstep rfl) hlead, hend⟩

/-- The moves of one delay lead to the issue of the transaction that the writes left call for (R95). -/
theorem Request.Delaying.elapse {left : BitVec 2} (h : q.Delaying left evs (delayAndIssue q.cfg ++ ms) s) :
    ∃ t, Leads s t ∧ q.At (if left = 0 then .reading else .writing) (evs ++ [.delay]) (.engine :: ms) t ∧
      t.wrLeft = left ∧ t.pend = false := by
  obtain ⟨hpos, hleft, hdly⟩ := h
  rw [delayAndIssue, List.append_assoc] at hpos
  obtain ⟨u, hlead, hu, hz, hwr⟩ := hpos.ticks hdly
  have hpend : u.pend = false := (unpended_of_inv hu.inv (by simp [hu.st]) (by simp [hu.st])).pend
  have hstep : step u = .next (u.drive .engine).expire :=
    (hu.step_eq ⟨nofun, nofun⟩).trans (execStDelaying_engine (u := u.drive .engine) rfl)
  have hend : u.wrLeft = left := hwr.trans hleft
  rcases expire_cases (u.drive .engine) with ⟨_, hw, ht⟩ | ⟨_, hw, ht⟩ | ⟨hne, _⟩
  · rw [ht] at hstep
    have hzero : left = 0 := hend.symm.trans hw
    exact ⟨_, hlead.tail (hu.moves hstep rfl), hu.next hstep ⟨rfl, rfl, rfl⟩ (by rw [if_pos hzero]; rfl) rfl rfl, hend,
      hpend⟩
  · rw [ht] at hstep
    have hmore : left ≠ 0 := fun h0 => hw (hend.trans h0)
    exact ⟨_, hlead.tail (hu.moves hstep rfl), hu.next hstep ⟨rfl, rfl, rfl⟩ (by rw [if_neg hmore]; rfl) rfl rfl, hend,
      hpend⟩
  · exact absurd hz hne

/-! ### A write and its answer (R96, R97) -/

theorem Request.Delaying.issueWrite {left : BitVec 2} (h : q.Delaying left evs (delayAndIssue q.cfg ++ ms) s)
    (hl : left ≠ 0) :
    ∃ t, Leads s t ∧ q.At .writing (evs ++ [.delay]) ms t ∧ t.wrLeft = left ∧ t.pend = true := by
  obtain ⟨u, hlead, hu, hwr, hp⟩ := h.elapse
  rw [if_neg hl] at hu
  have hstep : step u = .next ((u.drive .engine).issue (.write q.frame)) :=
    (hu.step_eq ⟨nofun, nofun⟩).trans (execStWriting_engine_issue (u := u.drive .engine) rfl hp (hu.txFrame rfl))
  exact ⟨_, hlead.tail (hu.moves hstep rfl), hu.next_silent hstep ⟨rfl, rfl, rfl⟩ hu.st rfl rfl, hwr, rfl⟩

theorem Request.At.writeAnswer_eq {c : Code} (h : q.At .writing evs (.writeDone c :: ms) s) (hp : s.pend = true) :
    step s = writeAnswer (s.drive (.writeDone c)) :=
  (h.step_eq ⟨nofun, nofun⟩).trans (execStWriting_answer (u := s.drive (.writeDone c)) rfl hp)

theorem Request.At.writeFails {c : Code} (h : q.At .writing evs (.writeDone c :: ms) s) (hp : s.pend = true)
    (hc : c ≠ 0) :
    ∃ t, Leads s t ∧ t.sched = ms ∧ q.Ends true ⟨.writeFailed, none, some c, evs ++ [.write q.frame c]⟩ t := by
  have hstep := (h.writeAnswer_eq hp).trans
    (writeAnswer_of_failure (u := s.drive (.writeDone c)) (h.txFrame rfl) hc)
  refine ⟨_, .single (h.moves hstep rfl), congrArg List.tail h.sched, ends_endRequest h.inv.noDirect rfl ?_⟩
  simp [h.hist, Move.xwStatus]

theorem Request.At.writeGoesOn {left : BitVec 2} (h : q.At .writing evs (.writeDone 0 :: ms) s) (hp : s.pend = true)
    (hw : s.wrLeft = left) (hl : left ≠ 0) (hgo : left - 1 ≠ 0 ∨ q.op = .get) :
    ∃ t, Leads s t ∧ q.Delaying (left - 1) (evs ++ [.write q.frame 0]) ms t := by
  subst hw
  have hstep := (h.writeAnswer_eq hp).trans
    (writeAnswer_of_more (u := s.drive (.writeDone 0)) (h.txFrame rfl) rfl hl (hgo.imp_right h.op.trans))
  refine ⟨_, .single (h.moves hstep rfl), h.next hstep ⟨rfl, rfl, rfl⟩ rfl rfl rfl, rfl, ?_⟩
  exact (dlyLoad_toNat s.cfg).trans (by rw [h.cfg])

theorem Request.At.lastWrite (h : q.At .writing evs (.writeDone 0 :: ms) s) (hp : s.pend = true) (hw : s.wrLeft = 1)
    (ho : q.op = .set) :
    ∃ t, Leads s t ∧ t.sched = ms ∧ q.Ends true ⟨.ok, none, none, evs ++ [.write q.frame 0]⟩ t := by
  have hstep := (h.writeAnswer_eq hp).trans
    (writeAnswer_of_last (u := s.drive (.writeDone 0)) (h.txFrame rfl) rfl hw (h.op.trans ho))
  refine ⟨_, .single (h.moves hstep rfl), congrArg List.tail h.sched, ends_endRequest h.inv.noDirect rfl ?_⟩
  simp [h.hist]

/-! ### The read, its answer and DECODE (R98, R99, R100) -/

theorem Request.Delaying.issueRead (h : q.Delaying 0 evs (delayAndIssue q.cfg ++ ms) s) :
    ∃ t, Leads s t ∧ q.At .reading (evs ++ [.delay]) ms t ∧ t.pend = true := by
  obtain ⟨u, hlead, hu, _, hp⟩ := h.elapse
  rw [if_pos rfl] at hu
  have hstep : step u = .next (((u.drive .engine).setRx []).issue (.read u.cfg.respLen)) :=
    (hu.step_eq ⟨nofun, nofun⟩).trans (execStReading_engine_issue (u := u.drive .engine) rfl hp)
  exact ⟨_, hlead.tail (hu.moves hstep rfl), hu.next_silent hstep ⟨rfl, rfl, rfl⟩ hu.st rfl rfl, rfl⟩

variable {c : Code} {data : List Byte}

theorem Request.At.readAnswer_eq (h : q.At .reading evs (.readDone c data :: ms) s) (hp : s.pend = true) :
    step s = readAnswer (s.drive (.readDone c data)) :=
  (h.step_eq ⟨nofun, nofun⟩).trans (execStReading_answer (u := s.drive (.readDone c data)) rfl hp)

theorem Request.At.readFails (h : q.At .reading evs (.readDone c data :: ms) s) (hp : s.pend = true)
    (hl : data.length ≤ q.cfg.respLen) (hc : c ≠ 0) :
    ∃ t, Leads s t ∧ t.sched = ms ∧
      q.Ends true ⟨.readFailed, none, some c, evs ++ [.read q.cfg.respLen c data]⟩ t := by
  have hstep := (h.readAnswer_eq hp).trans
    (readAnswer_of_failure (u := s.drive (.readDone c data)) (h.cfg ▸ hl) hc)
  refine ⟨_, .single (h.moves hstep rfl), congrArg List.tail h.sched, ends_endRequest h.inv.noDirect rfl ?_⟩
  simp [h.hist, h.cfg, Move.xrStatus, Move.xrData]

/-- The bytes of a successful read stand in a buffer that its issue has zero-filled. -/
theorem Request.At.readSucceeds (h : q.At .reading evs (.readDone 0 data :: ms) s) (hp : s.pend = true)
    (hl : data.length ≤ q.cfg.respLen) :
    ∃ t, Leads s t ∧ q.At .decoding (evs ++ [.read q.cfg.respLen 0 data]) ms t ∧
      t.rxbuf = Memory.writeList [] 0 data := by
  have hstep := (h.readAnswer_eq hp).trans
    (readAnswer_of_success (u := s.drive (.readDone 0 data)) (h.cfg ▸ hl) rfl)
  obtain ⟨_, hempty⟩ := h.inv.readInFlight hp h.st
  refine ⟨_, .single (h.moves hstep rfl), h.next hstep ⟨rfl, rfl, rfl⟩ rfl ?_ rfl, ?_⟩
  · simp [h.cfg, Move.xrData]
  · simp [hempty, Move.xrData]

/-- `Decoding` has no rule for a tick (R94). -/
theorem execStDecoding_tick {u : State} (ht : u.turn = .tick) : execStDecoding u = .next u := by
  simp only [execStDecoding, ht]

theorem Request.At.decoding_ticks {n : Nat} (h : q.At .decoding evs (List.replicate n .tick ++ ms) s) :
    ∃ t, Leads s t ∧ q.At .decoding evs ms t ∧ t.rxbuf = s.rxbuf := by
  induction n generalizing s with
  | zero => exact ⟨s, .refl, h, rfl⟩
  | succ n ih =>
    have hstep : step s = .next (s.drive .tick) :=
      (h.step_eq ⟨nofun, nofun⟩).trans (execStDecoding_tick (u := s.drive .tick) rfl)
    obtain ⟨t, hlead, ht⟩ := ih (h.next_silent hstep ⟨rfl, rfl, rfl⟩ h.st rfl rfl)
    exact ⟨t, .head (h.moves hstep rfl) hlead, ht⟩

/-- What DECODE makes of the bytes of a read, those not delivered being 0 (R85, R106). -/
def decodedResult (data : List Byte) (evs : List Event) : RefResult :=
  if delivered data srcOff = displayAddr then ⟨.value, some (delivered data valOffLo), none, evs⟩
  else ⟨.invalidResponse, none, none, evs⟩

theorem Request.At.decode (h : q.At .decoding evs (.engine :: ms) s) (hrx : s.rxbuf = Memory.writeList [] 0 data) :
    ∃ t, Leads s t ∧ t.sched = ms ∧ q.Ends true (decodedResult data evs) t := by
  have hread (k : Nat) : Memory.read (s.drive .engine).rxbuf k = delivered data k := by
    rw [drive_rxbuf, hrx]
    exact memory_read_filled data k
  have hstep : step s = .next (s.drive .engine).decodeStep :=
    (h.step_eq ⟨nofun, nofun⟩).trans (execStDecoding_engine (u := s.drive .engine) rfl)
  rcases decodeStep_cases (s.drive .engine) with ⟨hsrc, ht⟩ | ⟨hsrc, ht⟩ <;> rw [ht] at hstep <;> rw [hread] at hsrc
  · rw [State.curLo, hread] at hstep
    rw [decodedResult, if_pos hsrc]
    exact ⟨_, .single (h.moves hstep rfl), congrArg List.tail h.sched, ends_endRequest h.inv.noDirect rfl h.hist⟩
  · rw [decodedResult, if_neg hsrc]
    exact ⟨_, .single (h.moves hstep rfl), congrArg List.tail h.sched, ends_endRequest h.inv.noDirect rfl h.hist⟩

end Positions

/-! ### The acceptance (R91, R92) -/

section Offer

variable {s : State} {op : CmdOp} {v : Raw} {ms : List Move}

/-- The request that the offer of this command to `s` begins. -/
def requestOf (s : State) (op : CmdOp) (v : Raw) : Request := ⟨s.cfg, op, v, s.hist⟩

theorem step_offer {a : Bool} (hi : Inv s) (hs : s.sched = .offer (cmdWordOf op v) a :: ms) :
    step s = .next ((s.drive (.offer (cmdWordOf op v) a)).accept op v) := by
  have hm : s.nextMove = .offer (cmdWordOf op v) a := by simp [State.nextMove, hs]
  rcases step_move s hi.noDirect (by simp [hm]) with ⟨w, b, ho, h⟩ | ⟨hno, _⟩
  · obtain ⟨rfl, rfl⟩ : cmdWordOf op v = w ∧ a = b := by simpa using hm.symm.trans ho
    rw [h, cmdOpOf_cmdWordOf, cmdValueOf_cmdWordOf]
  · exact absurd hm (hno _ _)

theorem offer_accepted (hi : Inv s) (hr : s.cmdReady = true) (hs : s.sched = .offer (cmdWordOf op v) true :: ms) :
    ∃ t, Leads s t ∧ (requestOf s op v).At .building [] ms t := by
  have hstep := step_offer hi hs
  rw [accept_available (s := s.drive (.offer (cmdWordOf op v) true)) hr rfl] at hstep
  exact ⟨_, .single ⟨by simp [hs], rfl, hstep⟩, everyStepKeepsTheInvariant _ _ hi hstep, rfl, rfl, rfl, rfl, rfl,
    congrArg List.tail hs⟩

theorem offer_without_transport (hi : Inv s) (hr : s.cmdReady = true)
    (hs : s.sched = .offer (cmdWordOf op v) false :: ms) :
    ∃ t, Leads s t ∧ t.sched = ms ∧ (requestOf s op v).Ends false ⟨.connectionUnavailable, none, none, []⟩ t := by
  have hstep := step_offer hi hs
  rw [accept_unavailable (s := s.drive (.offer (cmdWordOf op v) false)) hr rfl] at hstep
  exact ⟨_, .single ⟨by simp [hs], rfl, hstep⟩, congrArg List.tail hs, ends_endRequest hi.noDirect rfl rfl⟩

end Offer

/-! ### The moves of a command, and the reference procedures -/

theorem delayAndIssue_hostless (cfg : Config) : ∀ m ∈ delayAndIssue cfg, Hostless m := by
  intro m hm
  have hcases : m = .tick ∨ m = .engine := by
    simp only [delayAndIssue, List.mem_append, List.mem_replicate, List.mem_cons, List.not_mem_nil] at hm
    tauto
  rcases hcases with rfl | rfl <;> exact ⟨nofun, nofun⟩

theorem answer_hostless (a : Answer) : Hostless a.move := by
  cases a <;> exact ⟨nofun, nofun⟩

theorem transaction_hostless (cfg : Config) (a : Answer) {ms : List Move} (h : ∀ m ∈ ms, Hostless m) :
    ∀ m ∈ delayAndIssue cfg ++ a.move :: ms, Hostless m :=
  List.forall_mem_append.2 ⟨delayAndIssue_hostless cfg, List.forall_mem_cons.2 ⟨answer_hostless a, h⟩⟩

/-- The moves of a command with two answers: BUILD and the first transaction, then the second one, then what is left. -/
theorem moves_of_two_answers (cfg : Config) (op : CmdOp) (v : Raw) (avail : Bool) (a b : Answer) :
    Line.moves cfg (.command op v avail [a, b]) = .offer (cmdWordOf op v) avail :: .engine ::
      (delayAndIssue cfg ++ a.move :: (delayAndIssue cfg ++ b.move :: delayAndIssue cfg)) := by
  simp [Line.moves]

theorem padded_getD (data : List Byte) (n k : Nat) : (data ++ List.replicate n 0).getD k 0 = data.getD k 0 := by
  simp only [List.getD_eq_getElem?_getD, List.getElem?_append, List.getElem?_replicate]
  split_ifs <;> simp_all

theorem refFrameGet_eq (cfg : Config) : refFrameGet cfg = buildGet cfg := (getFrameBytes cfg).1.symm

theorem refFrameSet_eq (cfg : Config) (raw : Raw) : refFrameSet cfg raw = buildSet cfg (clamp raw) := by
  have hclamp : (if raw.toNat ≤ 100 then raw.setWidth 8 else 100 : Byte) = clamp raw := by
    split_ifs with h
    · exact (PacketCodec.clamp_of_le_hundred h).symm
    · exact (clamp_of_hundred_le (by omega)).symm
  rw [(setFrameBytes cfg (clamp raw)).1, ← hclamp]
  rfl

section References

variable {cfg : Config} {w1 w2 r : Code} {data : List Byte} {raw : Raw}

theorem refGet_writeFailed (h : w1 ≠ 0) :
    refGet cfg true w1 r data = ⟨.writeFailed, none, some w1, [.delay, .write (buildGet cfg) w1]⟩ := by
  simp only [refGet, refFrameGet_eq, if_pos h]
  rfl

theorem refGet_readFailed (h : r ≠ 0) :
    refGet cfg true 0 r data =
      ⟨.readFailed, none, some r, [.delay, .write (buildGet cfg) 0, .delay, .read cfg.respLen r data]⟩ := by
  simp only [refGet, refFrameGet_eq, if_pos h]
  rfl

theorem refGet_decoded :
    refGet cfg true 0 0 data =
      decodedResult data [.delay, .write (buildGet cfg) 0, .delay, .read cfg.respLen 0 data] := by
  simp only [refGet, refFrameGet_eq, padded_getD, decodedResult, ← ite_not (p := delivered data srcOff = displayAddr)]
  rfl

theorem refSet_firstFailed (h : w1 ≠ 0) :
    refSet cfg true raw w1 w2 = ⟨.writeFailed, none, some w1, [.delay, .write (buildSet cfg (clamp raw)) w1]⟩ := by
  simp only [refSet, refFrameSet_eq, if_pos h]
  rfl

theorem refSet_secondFailed (h : w2 ≠ 0) :
    refSet cfg true raw 0 w2 = ⟨.writeFailed, none, some w2,
      [.delay, .write (buildSet cfg (clamp raw)) 0, .delay, .write (buildSet cfg (clamp raw)) w2]⟩ := by
  simp only [refSet, refFrameSet_eq, if_pos h]
  rfl

theorem refSet_ok :
    refSet cfg true raw 0 0 = ⟨.ok, none, none,
      [.delay, .write (buildSet cfg (clamp raw)) 0, .delay, .write (buildSet cfg (clamp raw)) 0]⟩ := by
  simp only [refSet, refFrameSet_eq]
  rfl

end References

/-! ### The two commands (R101, R102) -/

section Commands

variable {q : Request} {s : State}

/-- The read of a GET, from its delay to the end of the request. -/
theorem Request.Delaying.read {evs : List Event} {r : Code} {data : List Byte}
    (h : q.Delaying 0 evs (delayAndIssue q.cfg ++ .readDone r data :: delayAndIssue q.cfg) s)
    (hl : data.length ≤ q.cfg.respLen) :
    q.Completes true (if r = 0 then decodedResult data (evs ++ [.delay] ++ [.read q.cfg.respLen 0 data])
      else ⟨.readFailed, none, some r, evs ++ [.delay] ++ [.read q.cfg.respLen r data]⟩) s := by
  obtain ⟨u, hlead, hu, hp⟩ := h.issueRead
  by_cases hr : r = 0
  · subst hr
    rw [if_pos rfl]
    obtain ⟨d, hanswer, hd, hrx⟩ := hu.readSucceeds hp hl
    obtain ⟨e, hticks, he, hsame⟩ := hd.decoding_ticks
    obtain ⟨t, hdecode, hms, ht⟩ := he.decode (hsame.trans hrx)
    have hrest : ∀ m ∈ [Move.engine], Hostless m := List.forall_mem_singleton.2 ⟨nofun, nofun⟩
    exact (ht.completes hms hrest).of_leads (hlead.trans (hanswer.trans (hticks.trans hdecode)))
  · rw [if_neg hr]
    obtain ⟨t, hanswer, hms, ht⟩ := hu.readFails hp hl hr
    exact (ht.completes hms (delayAndIssue_hostless _)).of_leads (hlead.trans hanswer)

/-- A GET from BUILD on: one write, then the read. -/
theorem Request.At.get {w1 r : Code} {data : List Byte} (ho : q.op = .get) (hl : data.length ≤ q.cfg.respLen)
    (h : q.At .building [] (.engine :: (delayAndIssue q.cfg ++ .writeDone w1 ::
      (delayAndIssue q.cfg ++ .readDone r data :: delayAndIssue q.cfg))) s) :
    q.Completes true (refGet q.cfg true w1 r data) s := by
  have hframe : q.frame = buildGet q.cfg := by rw [Request.frame, ho]; rfl
  obtain ⟨b, hbuild, hb⟩ := h.build
  rw [ho] at hb
  obtain ⟨u, hissue, hu, hw, hp⟩ := hb.issueWrite (by decide)
  by_cases hc : w1 = 0
  · subst hc
    obtain ⟨d, hanswer, hd⟩ := hu.writeGoesOn hp hw (by decide) (.inr ho)
    have hread := (hd.read hl).of_leads (hbuild.trans (hissue.trans hanswer))
    rw [hframe] at hread
    by_cases hr : r = 0
    · subst hr
      rw [refGet_decoded]
      rwa [if_pos rfl] at hread
    · rw [refGet_readFailed hr]
      rwa [if_neg hr] at hread
  · obtain ⟨t, hanswer, hms, ht⟩ := hu.writeFails hp hc
    rw [hframe] at ht
    rw [refGet_writeFailed hc]
    exact (ht.completes hms (transaction_hostless _ (.read r data) (delayAndIssue_hostless _))).of_leads
      (hbuild.trans (hissue.trans hanswer))

/-- A SET from BUILD on: two writes of one frame. -/
theorem Request.At.set {w1 w2 : Code} (ho : q.op = .set)
    (h : q.At .building [] (.engine :: (delayAndIssue q.cfg ++ .writeDone w1 ::
      (delayAndIssue q.cfg ++ .writeDone w2 :: delayAndIssue q.cfg))) s) :
    q.Completes true (refSet q.cfg true q.raw w1 w2) s := by
  have hframe : q.frame = buildSet q.cfg (clamp q.raw) := by rw [Request.frame, ho]; rfl
  obtain ⟨b, hbuild, hb⟩ := h.build
  rw [ho] at hb
  obtain ⟨u, hissue, hu, hw, hp⟩ := hb.issueWrite (by decide)
  have hsecond := transaction_hostless q.cfg (.write w2) (delayAndIssue_hostless q.cfg)
  by_cases hc : w1 = 0
  · subst hc
    obtain ⟨d, hanswer, hd⟩ := hu.writeGoesOn hp hw (by decide) (.inl (by decide))
    obtain ⟨e, hissue', he, hw', hp'⟩ := hd.issueWrite (by decide)
    have hlead : Leads s e := hbuild.trans (hissue.trans (hanswer.trans hissue'))
    by_cases hc' : w2 = 0
    · subst hc'
      obtain ⟨t, hlast, hms, ht⟩ := he.lastWrite hp' hw' ho
      rw [hframe] at ht
      rw [refSet_ok]
      exact (ht.completes hms (delayAndIssue_hostless _)).of_leads (hlead.trans hlast)
    · obtain ⟨t, hlast, hms, ht⟩ := he.writeFails hp' hc'
      rw [hframe] at ht
      rw [refSet_secondFailed hc']
      exact (ht.completes hms (delayAndIssue_hostless _)).of_leads (hlead.trans hlast)
  · obtain ⟨t, hanswer, hms, ht⟩ := hu.writeFails hp hc
    rw [hframe] at ht
    rw [refSet_firstFailed hc]
    exact (ht.completes hms hsecond).of_leads (hbuild.trans (hissue.trans hanswer))

end Commands

/-- Without the transport the moves after the offer find an ended request (R92). -/
theorem completes_without_transport {s : State} {op : CmdOp} {v : Raw} {a b : Answer} (hi : Inv s)
    (hr : s.cmdReady = true) (hs : s.sched = Line.moves s.cfg (.command op v false [a, b])) :
    (requestOf s op v).Completes false ⟨.connectionUnavailable, none, none, []⟩ s := by
  rw [moves_of_two_answers] at hs
  obtain ⟨t, hlead, hms, ht⟩ := offer_without_transport hi hr hs
  have hanswers := transaction_hostless s.cfg a (transaction_hostless s.cfg b (delayAndIssue_hostless s.cfg))
  exact (ht.completes hms (List.forall_mem_cons.2 ⟨⟨nofun, nofun⟩, hanswers⟩)).of_leads hlead

/-- Settles O54: the request is followed from its acceptance to its end. -/
theorem getRunIsTheReference : Obligations.GetRunIsTheReference := by
  intro s v avail w1 r data hi hr hl hs
  have hcompletes : (requestOf s .get v).Completes avail (refGet s.cfg avail w1 r data) s := by
    cases avail with
    | false => exact completes_without_transport hi hr hs
    | true =>
      rw [moves_of_two_answers] at hs
      obtain ⟨t, hlead, ht⟩ := offer_accepted hi hr hs
      exact (ht.get rfl hl).of_leads hlead
  obtain ⟨t, hlead, hms, hend⟩ := hcompletes
  exact ⟨t, run_of_leads hlead hms, hms, hend.valid, hend.kind, hend.value, hend.code, hend.hist⟩

/-- Settles O55: the same for the two writes of a SET. -/
theorem setRunIsTheReference : Obligations.SetRunIsTheReference := by
  intro s raw avail w1 w2 hi hr hs
  have hcompletes : (requestOf s .set raw).Completes avail (refSet s.cfg avail raw w1 w2) s := by
    cases avail with
    | false => exact completes_without_transport hi hr hs
    | true =>
      rw [moves_of_two_answers] at hs
      obtain ⟨t, hlead, ht⟩ := offer_accepted hi hr hs
      exact (ht.set rfl).of_leads hlead
  obtain ⟨t, hlead, hms, hend⟩ := hcompletes
  exact ⟨t, run_of_leads hlead hms, hms, hend.valid, hend.kind, hend.code, hend.hist⟩

end Sys2Proof.Sequencer

/-! PROOFS. The statements of 60_exceptions.md: reset wins over every other event (R126, R140), and the error entry is the same
for each of the four kinds (R120 to R124, R127). -/

namespace Sys2Proof.Exceptions

open Sys2Proof.Machine Sys2Proof.Laws Sys2Proof.Registers

/-! ## Reset from any state (R126, R140, R142) -/

section Reset

variable (u : State)

/-- Reset forgets the request: what R37 gives a value is as in the reset state, whatever the state before. -/
theorem applyReset_registers : u.applyReset.st = State.reset.st ∧ u.applyReset.resKind = State.reset.resKind ∧
    u.applyReset.pend = State.reset.pend ∧ u.applyReset.wrLeft = State.reset.wrLeft ∧ u.applyReset.hist = [] :=
  ⟨rfl, rfl, rfl, rfl, rfl⟩

/-- The outputs are functions of `st` and `pend` (R32, R34), so that they too are those of the reset state. -/
theorem applyReset_outputs : u.applyReset.cmdReady = State.reset.cmdReady ∧ u.applyReset.busy = State.reset.busy ∧
    u.applyReset.resValid = State.reset.resValid ∧ u.applyReset.xwReq = State.reset.xwReq ∧
    u.applyReset.xrReq = State.reset.xrReq := by
  obtain ⟨hst, _, hpend, _, _⟩ := applyReset_registers u
  simp only [State.cmdReady, State.busy, State.resValid, State.xwReq, State.xrReq, hst, hpend, and_self]

/-- What is not the engine's to reset (log 12). -/
theorem applyReset_environment : u.applyReset.cfg = u.cfg ∧ u.applyReset.sched = u.sched := ⟨rfl, rfl⟩

end Reset

/-- Settles O12: the step is the reset of the driven state, whose registers and outputs are those of the reset state. -/
theorem resetWinsFromAnyState : Obligations.ResetWinsFromAnyState := by
  intro s hdirect hrst
  obtain ⟨hst, hkind, hpend, hleft, hready, hbusy, hvalid, hxw, hxr⟩ := resetGivesTheStatedValues
  obtain ⟨est, ekind, epend, eleft, hhist⟩ := applyReset_registers (s.drive .rst)
  obtain ⟨eready, ebusy, evalid, exw, exr⟩ := applyReset_outputs (s.drive .rst)
  obtain ⟨hcfg, hsched⟩ := applyReset_environment (s.drive .rst)
  exact ⟨_, step_rst s hdirect hrst, est.trans hst, ekind.trans hkind, epend.trans hpend, eleft.trans hleft, hhist,
    eready.trans hready, ebusy.trans hbusy, evalid.trans hvalid, exw.trans hxw, exr.trans hxr, hcfg, hsched⟩

/-! ## The error entry (R120 to R124, R127; log 4) -/

section Raise

variable (s : State) (k : ResKind)

/-- The error entry writes the result registers, `st` and one event, and leaves every other field (R127). -/
theorem raise_frame (c : Option Code) : s.raise k c = { s with
    resKind := k, st := .failed, hist := s.hist ++ [.result k (s.raise k c).resValue (s.raise k c).resCode],
    resValue := (s.raise k c).resValue, resCode := (s.raise k c).resCode, free := (s.raise k c).free } := rfl

/-- A kind with a status records it bit for bit, in `res_code` and in its event (R122, R123). -/
theorem raise_status_frame (c : Code) : s.raise k (some c) = { s with
    resKind := k, resCode := c, st := .failed, hist := s.hist ++ [.result k (s.raise k (some c)).resValue c],
    resValue := (s.raise k (some c)).resValue, free := (s.raise k (some c)).free } := raise_frame s k (some c)

end Raise

/-- Settles O40: each of the four rows is the error entry, two with a transport status and two without. -/
theorem raiseEntersFailed : Obligations.RaiseEntersFailed :=
  fun s => ⟨⟨_, rfl, raise_frame s .connectionUnavailable none⟩,
    ⟨_, rfl, raise_status_frame s .writeFailed s.xwStatus⟩,
    ⟨_, rfl, raise_status_frame s .readFailed s.xrStatus⟩,
    ⟨_, rfl, raise_frame s .invalidResponse none⟩⟩

end Sys2Proof.Exceptions

/-! PROOFS. The statement of 70_reset_and_hazards.md: reset leaves no history (R140). -/

namespace Sys2Proof.ResetAndHazards

open Sys2Proof.Machine Sys2Proof.Scope Sys2Proof.Registers

/-- Settles O46: reset is in `Idle` (R37), where the history has to be empty, and it restarts empty (R140). -/
theorem historyFitsAtReset : Obligations.HistoryFitsAtReset := by
  obtain ⟨hidle, _⟩ := resetGivesTheStatedValues
  have hhist : State.reset.hist = [] := rfl
  exact (historyFits_idle_iff hidle).2 hhist

end Sys2Proof.ResetAndHazards
